-- ==== Sys2Proof/Word.lean ====
section
/-! DEFINITION. The words of the block (spec/00_scope.md R10): every value is unsigned, bit 0 is the least significant. -/

namespace Sys2Proof

/-- An 8-bit byte: expander bytes, HD44780 commands and characters (R10). -/
abbrev Byte := BitVec 8

/-- A 4-bit nibble, half of a byte (R10, R55). -/
abbrev Nibble := BitVec 4

/-- A 7-bit I2C device address (R23, R50). -/
abbrev Addr7 := BitVec 7

/-- A 20-bit request word: OP[19:16], A[15:8], B[7:0] (R71). -/
abbrev ReqWord := BitVec 20

end Sys2Proof
end

