-- ==== Sys2Proof/Config.lean ====
section
/-! DEFINITION. The implementation parameters of spec/00_scope.md R5 to R8.

The pin positions and `T_WR_US` are OPEN (R5): the model takes them as arguments. `exec` and `step` have no configuration argument
(the host fixes their types), so a state carries the parameters in `State.cfg`, which no step writes. The values that the machine
has after reset are opaque constants: nothing in Lean can evaluate them. Log entry 6. -/

namespace Sys2Proof

/-- The expander bit, 0 to 7, of each of the seven logical signals (R5, R79). -/
structure PinAssignment where
  /-- `PIN_D4`: LCD D4, nibble bit 0. -/
  d4 : Fin 8
  /-- `PIN_D5`: LCD D5, nibble bit 1. -/
  d5 : Fin 8
  /-- `PIN_D6`: LCD D6, nibble bit 2. -/
  d6 : Fin 8
  /-- `PIN_D7`: LCD D7, nibble bit 3. -/
  d7 : Fin 8
  /-- `PIN_RS`: register select. -/
  rs : Fin 8
  /-- `PIN_EN`: enable. -/
  en : Fin 8
  /-- `PIN_BL`: backlight. -/
  bl : Fin 8
  deriving DecidableEq, Repr, Inhabited

/-- The seven assigned expander bits (R6). -/
def PinAssignment.assigned (p : PinAssignment) : List (Fin 8) :=
  [p.d4, p.d5, p.d6, p.d7, p.rs, p.en, p.bl]

/-- R6: the seven pin parameters are pairwise distinct. -/
abbrev PinAssignment.Distinct (p : PinAssignment) : Prop := p.assigned.Nodup

/-- R7: `WIDTH` lies in 1..40. -/
abbrev WidthInRange (width : Nat) : Prop := 1 ≤ width ∧ width ≤ 40

/-- The parameters of one block, well formed by R6 and R7: an ill-formed configuration has no term here (R6, I5). -/
structure Params where
  /-- The pin positions (R5). -/
  pins : PinAssignment
  /-- `WIDTH`, the number of columns (R7). -/
  width : Nat
  /-- `T_WR_US`, the wait after each `WRITE`, in µs (R105). -/
  tWrUs : Nat
  /-- R6. -/
  pinsDistinct : pins.Distinct
  /-- R7. -/
  widthInRange : WidthInRange width
  deriving DecidableEq, Repr

/-- `HEIGHT`, a constant and not a parameter (R5, R7). -/
def Config.height : Nat := 2

/-- The OPEN pin positions of this hardware: R5 gives no value and none is chosen. DESIGN CHOICE, safe: log entry 6. -/
opaque Config.openPins : PinAssignment

/-- The OPEN inter-write delay of this hardware: R5 and R105 give no value and none is chosen. DESIGN CHOICE, safe: log entry 6. -/
opaque Config.tWrUs : Nat

/-- The pin positions of this hardware: OPEN, and pairwise distinct as R6 requires. The second branch only makes the definition total: what is
known of the result is `Distinct` and nothing else. -/
def Config.pins : PinAssignment :=
  if Config.openPins.Distinct then Config.openPins
  else { d4 := 0, d5 := 1, d6 := 2, d7 := 3, rs := 4, en := 5, bl := 6 }

theorem Config.pins_distinct : Config.pins.Distinct := by
  unfold Config.pins
  split
  · assumption
  · decide

/-- The parameters of this hardware: `WIDTH` is 16 (R5, R7), the others are OPEN. -/
def Config.hardware : Params where
  pins := Config.pins
  width := 16
  tWrUs := Config.tWrUs
  pinsDistinct := Config.pins_distinct
  widthInRange := by decide

end Sys2Proof
end

