-- ==== Sys2Proof/Syntax.lean ====
section
/-! DEFINITION. The request set TLCD-REQ-1 (spec/30_encoding.md R72): one constructor per row of spec/opcode_table.json.

Each operand has exactly the width of its field (R73), so every term of `Instr` is a well-formed request. `PRINT` has no opcode: it is the
pseudo-instruction of R78, expanded in Decode.lean (`printWords`). -/

namespace Sys2Proof

/-- A decoded request (R72, R73). -/
inductive Instr where
  /-- OP 0x0: probe the expander at `addr` and initialize the LCD (R120). -/
  | construct (addr : Addr7)
  /-- OP 0x1: clear the display (R151). -/
  | clear
  /-- OP 0x2: move the LCD's cursor to the clamped cell (`x`, `y`) (R153). -/
  | setCursor (x y : Byte)
  /-- OP 0x3: backlight on (R155). -/
  | backlightOn
  /-- OP 0x4: backlight off (R156). -/
  | backlightOff
  /-- OP 0x5: display on (R157). -/
  | displayOn
  /-- OP 0x6: display off (R158). -/
  | displayOff
  /-- OP 0x7: write one character byte (R165). -/
  | printChar (c : Byte)
  deriving DecidableEq, Repr

end Sys2Proof
end

