-- ==== Sys2Proof/WellFormed.lean ====
section
/-! DEFINITION. The checks of the spec on terms that can be ill formed: a configuration (spec/00_scope.md R6, R7) and a line of assembler text
(spec/30_encoding.md R77). A term of `Instr` cannot be ill formed: its operands have the widths of their fields. -/

namespace Sys2Proof

/-- A configuration as someone writes it down, before the checks of R6 and R7. -/
structure RawParams where
  pins : PinAssignment
  width : Nat
  tWrUs : Nat
  deriving DecidableEq, Repr

/-- Why a configuration is refused (R6, R7, I5). -/
inductive ConfigError where
  /-- R6: two pins share a bit. Raised by `RawParams.check`; safe, since no machine has such a configuration. -/
  | pinsOverlap
  /-- R7: `WIDTH` is outside 1..40. Raised by `RawParams.check`; safe, since no machine has such a configuration. -/
  | widthOutOfRange
  deriving DecidableEq, Repr

/-- R6 and R7: an ill-formed configuration is refused, so there is no model of it (I5). -/
def RawParams.check (r : RawParams) : Except ConfigError Params :=
  if hp : r.pins.Distinct then
    if hw : WidthInRange r.width then
      .ok { pins := r.pins, width := r.width, tWrUs := r.tWrUs, pinsDistinct := hp, widthInRange := hw }
    else .error .widthOutOfRange
  else .error .pinsOverlap

/-- One line of assembler text (R77), its numbers not yet checked against their ranges. -/
inductive AsmLine where
  | construct (addr : Nat)
  | clear
  | setCursor (x y : Nat)
  | backlightOn
  | backlightOff
  | displayOn
  | displayOff
  | printChar (c : Nat)
  /-- `PRINT "<text>"`, the pseudo-instruction of R78, with the bytes of its text. -/
  | print (text : List Byte)
  deriving DecidableEq, Repr

/-- R77: the operand ranges. An operand outside its range does not assemble. -/
def AsmLine.wellFormed : AsmLine → Bool
  | .construct addr => decide (addr ≤ 127)
  | .setCursor x y => decide (x ≤ 255) && decide (y ≤ 255)
  | .printChar c => decide (c ≤ 255)
  | .clear => true
  | .backlightOn => true
  | .backlightOff => true
  | .displayOn => true
  | .displayOff => true
  | .print _ => true

end Sys2Proof
end

