-- ==== Sys2Proof/Decode.lean ====
section
/-! DEFINITION. The request word: decoder (spec/30_encoding.md R75), encoder (R71 to R73), the host's numbering of a table word, and the expansion of
PRINT (R78). Decoding never looks at the state (R76). -/

namespace Sys2Proof

/-- The `OP` field, bits 19:16 (R71). -/
def opField (w : ReqWord) : BitVec 4 := w.extractLsb' 16 4

/-- The `A` field, bits 15:8 (R71). -/
def aField (w : ReqWord) : Byte := w.extractLsb' 8 8

/-- The `B` field, bits 7:0 (R71). -/
def bField (w : ReqWord) : Byte := w.extractLsb' 0 8

/-- The two cases in which a word is reserved (R74). -/
inductive Reserved where
  /-- `OP` is 0x8 to 0xF. Safe: the block refuses the word (R210). -/
  | opcode
  /-- A must-be-zero bit of the row that `OP` names is 1. Safe: the block refuses the word (R210). -/
  | mustBeZero
  deriving DecidableEq, Repr

/-- An operand-less request: `A` and `B` must be zero (R72). -/
def decodePlain (i : Instr) (a b : Byte) : Except Reserved Instr :=
  if a = 0 ∧ b = 0 then .ok i else .error .mustBeZero

/-- `Decode(w)` of R75, total on 20-bit words. -/
def decode (w : ReqWord) : Except Reserved Instr :=
  let a := aField w
  let b := bField w
  match (opField w).toNat with
  | 0x0 => if a = 0 ∧ b.getLsbD 7 = false then .ok (.construct (b.setWidth 7)) else .error .mustBeZero
  | 0x1 => decodePlain .clear a b
  | 0x2 => .ok (.setCursor b a)
  | 0x3 => decodePlain .backlightOn a b
  | 0x4 => decodePlain .backlightOff a b
  | 0x5 => decodePlain .displayOn a b
  | 0x6 => decodePlain .displayOff a b
  | 0x7 => if a = 0 then .ok (.printChar b) else .error .mustBeZero
  | _ => .error .opcode

/-- The word with the three fields of R71. -/
def requestWord (op : BitVec 4) (a b : Byte) : ReqWord := op ++ a ++ b

/-- The request word of a request (R72, R73). -/
def encode : Instr → ReqWord
  | .construct addr => requestWord 0x0 0 (addr.setWidth 8)
  | .clear => requestWord 0x1 0 0
  | .setCursor x y => requestWord 0x2 y x
  | .backlightOn => requestWord 0x3 0 0
  | .backlightOff => requestWord 0x4 0 0
  | .displayOn => requestWord 0x5 0 0
  | .displayOff => requestWord 0x6 0 0
  | .printChar c => requestWord 0x7 0 c

/-- The request that the decoder reads from an opcode-table word, numbered as spec/opcode_table.json numbers it: bit 0 of `w` is bit 0 of the
request word. A number of more than 20 bits is no request word (R71), nor is one of more bits than `nbits` says it has. -/
def decodeTableWord (nbits w : Nat) : Option Instr :=
  if w < 2 ^ 20 ∧ w < 2 ^ nbits then
    match decode (BitVec.ofNat 20 w) with
    | .ok i => some i
    | .error _ => none
  else none

/-- R78: `PRINT "<text>"` is one PRINTCHAR word per byte of the text, in order; the empty text is no word at all. -/
def printWords (text : List Byte) : List ReqWord :=
  text.map fun c => encode (.printChar c)

/-- R77 and R78: the request words of an assembler line; a line with an operand outside its range does not assemble. -/
def assemble (l : AsmLine) : Option (List ReqWord) :=
  if l.wellFormed then
    some <| match l with
      | .construct addr => [encode (.construct (BitVec.ofNat 7 addr))]
      | .clear => [encode .clear]
      | .setCursor x y => [encode (.setCursor (BitVec.ofNat 8 x) (BitVec.ofNat 8 y))]
      | .backlightOn => [encode .backlightOn]
      | .backlightOff => [encode .backlightOff]
      | .displayOn => [encode .displayOn]
      | .displayOff => [encode .displayOff]
      | .printChar c => [encode (.printChar (BitVec.ofNat 8 c))]
      | .print text => printWords text
  else none

end Sys2Proof
end

