-- ==== Sys2Proof/Machine/State.lean ====
section
/-! DEFINITION. The state of the block as plain data (spec/10_state.md R20 to R35), the transport events (spec/00_scope.md R12), the inputs of
a step (R14), the reasons a step can stop (spec/60_exceptions.md R201), and the state right after reset (R32). -/

namespace Sys2Proof.Machine

/-- `PHASE`: the 14 values of R21. -/
inductive Phase where
  /-- After reset, before CONSTRUCT. -/
  | unconstructed
  /-- `POWER_ON`: probe. -/
  | powerOn
  /-- `F8_1`: first forced 8-bit pulse. -/
  | f8First
  /-- `F8_2`: second forced 8-bit pulse. -/
  | f8Second
  /-- `F8_3`: third forced 8-bit pulse. -/
  | f8Third
  /-- `SW4`: switch to 4 bits. -/
  | sw4
  /-- `CFG_FUNC`: function set. -/
  | cfgFunc
  /-- `CFG_DOFF`: display off. -/
  | cfgDispOff
  /-- `CFG_CLEAR`: clear. -/
  | cfgClear
  /-- `CFG_ENTRY`: entry mode. -/
  | cfgEntry
  /-- `INIT_BL_ON`: backlight on. -/
  | initBlOn
  /-- `INIT_DISP_ON`: display on. -/
  | initDispOn
  /-- `READY`: initialized. -/
  | ready
  /-- `ABANDONED`: the probe failed; terminal until reset. -/
  | abandoned
  deriving DecidableEq, Repr

/-- `CF`, the control flags (R24, R25). -/
structure ControlFlags where
  /-- `CF.D`, display on. -/
  d : Bool
  /-- `CF.C`, cursor visible; no request writes it. -/
  c : Bool
  /-- `CF.B`, blink on; no request writes it. -/
  b : Bool
  deriving DecidableEq, Repr

/-- A transport event (R12). -/
inductive Event where
  /-- `PROBE(a) -> r`: `r` is whether a device answers at `a`. -/
  | probe (a : Addr7) (r : Bool)
  /-- `WRITE(a, b)`: byte `b` to the expander at `a`. The status is an input no rule reads (R205), so it is not part of the event. -/
  | write (a : Addr7) (b : Byte)
  /-- `WAIT(t)`: at least `t` µs (R58). -/
  | wait (t : Nat)
  deriving DecidableEq, Repr

/-- What the transport does with one `WRITE` (R205, R206). -/
inductive WriteAnswer where
  /-- It completes the `WRITE` and returns a status, which the block ignores (R205). -/
  | completed (status : Nat)
  /-- It never completes the `WRITE`: the block is stuck (R206). -/
  | never
  deriving DecidableEq, Repr

/-- The transport's answers to one request (R14). -/
structure Answers where
  /-- The answer to `PROBE`, read by CONSTRUCT alone (R121). A timeout is an answer of 0 (R207). -/
  probe : Bool
  /-- The answers to the request's `WRITE`s, in order. A `WRITE` past the end of the list completes (DESIGN CHOICE, safe: log entry 3). -/
  writes : List WriteAnswer
  deriving DecidableEq, Repr

/-- The answers held while no request is in progress. DESIGN CHOICE, safe: every accepted request loads its own first (log entry 2). -/
def Answers.none : Answers := { probe := false, writes := [] }

/-- One move of the host at the block's inputs (R14, R213, R222). -/
inductive Input where
  /-- The host presents a request word; the transport's answers to it come with it, since both are inputs of the step (R14). -/
  | request (w : ReqWord) (answers : Answers)
  /-- The host asserts reset. A request word presented at the same time stands beside it: reset takes priority (R213). -/
  | reset (alongside : Option ReqWord)
  deriving DecidableEq, Repr

/-- Why a step stops with a fault. -/
inductive Fault where
  /-- R206, `TRANSPORT_HANG`: a `WRITE` never completed and the block is still in that request, so it has no step. Raised by `waitForHost`; safe. -/
  | transportHang
  /-- R233, I15: reset asserted while `busy_o` is 1 has no step. Raised by `takeReset`; safe for a host that keeps its duty, and
  unsafe for one that does not (log entry 13). -/
  | resetWhileBusy
  deriving DecidableEq, Repr

/-- Why a request is refused (R201, R210): no state changes and no event is emitted. -/
inductive Refusal where
  /-- An instruction that has no meaning yet. Raised by `exec`'s refused arms alone; safe. -/
  | notModelled (mnemonic : String)
  /-- `RESERVED_REQUEST`: a reserved request word (R74, R212). Raised by `runWord`; safe. -/
  | reservedRequest
  /-- `NOT_CONSTRUCTED`: a request other than CONSTRUCT outside `READY` and `ABANDONED` (R211). Raised by `displayRequest`; safe. -/
  | notConstructed
  /-- `ALREADY_CONSTRUCTED`: CONSTRUCT outside `UNCONSTRUCTED` (R211). Raised by `constructRequest`; safe. -/
  | alreadyConstructed
  /-- `REQUEST_WHILE_BUSY`: a request presented while `busy_o` is 1 is not accepted (R213, R222, I14). Raised by `takeRequest`; safe. -/
  | requestWhileBusy
  deriving DecidableEq, Repr

/-- The state: the five elements of R20, the output `busy_o` of R31, and the model's own fields (parameters, inputs, event trace). -/
structure State where
  /-- `PHASE` (R21). -/
  phase : Phase
  /-- `RDY`, also the output `ready_o` (R22, R31). -/
  rdy : Bool
  /-- `ADDR` (R23). -/
  addr : Addr7
  /-- `CF` (R24, R25). -/
  cf : ControlFlags
  /-- `BL` (R27). -/
  bl : Bool
  /-- The output `busy_o` (R31): between steps it is 1 only when a `WRITE` never completed (R206). -/
  busy : Bool
  /-- The model's own field: the parameters of R5, which no step writes (R34; log entry 6). -/
  cfg : Params
  /-- The model's own field: the host's coming moves, oldest first (R14; log entry 2). -/
  inputs : List Input
  /-- The model's own field: the transport's answers to the request in progress (R14, R34; log entry 2). -/
  answers : Answers
  /-- The model's own field: the events emitted so far, oldest first (R12; log entry 8). -/
  trace : List Event
  deriving DecidableEq, Repr

/-- The state right after reset (R32, R230). `ADDR` is unspecified there and 0 here: DESIGN CHOICE, unsafe (log entry 7). The pins and `T_WR_US`
are the opaque constants of Config (log entry 6). No input is placed and no event has been emitted. -/
def State.reset : State where
  phase := .unconstructed
  rdy := false
  addr := 0
  cf := { d := false, c := false, b := false }
  bl := false
  busy := false
  cfg := Config.hardware
  inputs := []
  answers := Answers.none
  trace := []

end Sys2Proof.Machine
end

