-- ==== Sys2Proof/Machine/Operands.lean ====
section
/-! DEFINITION. The bytes the block builds: pin mapping (spec/40_transmit.md R100), expander bytes (spec/30_encoding.md R79 to R81), HD44780 command
bytes and init nibbles (R83, R84), clamping and DDRAM addresses (spec/42_display_ops.md R152, R153). -/

namespace Sys2Proof.Machine

/-- `bit(p)` of R11: the byte with only bit `p` set. -/
def bit (p : Fin 8) : Byte := BitVec.ofNat 8 (2 ^ p.val)

/-- `c ? m : 0`, a mask taken when a bit is 1 (R80, R100). -/
def maskIf (c : Bool) (m : Byte) : Byte := if c then m else 0

/-- `PIN_FREE`: the expander bit that no signal is assigned to (R6). -/
def pinFree (p : PinAssignment) : Fin 8 :=
  ((List.finRange 8).filter fun k => decide (k ∉ p.assigned)).headD 0

/-- `PinMap` (R100): nibble bit i drives data line D(4+i) (R56). -/
def pinMap (p : PinAssignment) (v : Nibble) : Byte :=
  maskIf (v.getLsbD 0) (bit p.d4) ||| maskIf (v.getLsbD 1) (bit p.d5) |||
    maskIf (v.getLsbD 2) (bit p.d6) ||| maskIf (v.getLsbD 3) (bit p.d7)

/-- `M_RS` (R80). -/
def maskRs (p : PinAssignment) : Byte := bit p.rs

/-- `M_EN` (R80). -/
def maskEn (p : PinAssignment) : Byte := bit p.en

/-- `M_BL` (R80). -/
def maskBl (p : PinAssignment) : Byte := bit p.bl

/-- `NibbleByte` (R80): the expander byte of a nibble, its enable bit clear (R81). -/
def nibbleByte (p : PinAssignment) (v : Nibble) (isData bl : Bool) : Byte :=
  pinMap p v ||| maskIf isData (maskRs p) ||| maskIf bl (maskBl p)

/-- `v >> 4`, bits 7:4 of a byte (R55, R106). -/
def highNibble (v : Byte) : Nibble := v.extractLsb' 4 4

/-- `v & 0xF`, bits 3:0 of a byte (R55, R106). -/
def lowNibble (v : Byte) : Nibble := v.extractLsb' 0 4

/-- `CMD_CLEAR` (R83). The values of R83 and R84 are the standard HD44780 ones, which the spec takes from general knowledge (log entry 11). -/
def cmdClear : Byte := 0x01

/-- `CMD_ENTRY`: increment, no shift (R83). -/
def cmdEntry : Byte := 0x06

/-- `CMD_FUNC`: 4-bit interface, 2 lines, 5×8 font (R83). -/
def cmdFunc : Byte := 0x28

/-- `CMD_DDRAM(a)` (R83): `0x80 | a`. -/
def cmdDdram (a : BitVec 7) : Byte := 0x80 ||| a.setWidth 8

/-- `NIB_FS8` (R84). -/
def nibFs8 : Nibble := 0x3

/-- `NIB_FS4` (R84). -/
def nibFs4 : Nibble := 0x2

/-- `Clamp(v, n)` of R152: `min(v, n - 1)`, never wrapped. -/
def clamp (v : Byte) (n : Nat) : Nat := min v.toNat (n - 1)

/-- The DDRAM address of the cell that SETCURSOR names, clamped (R52, R153): `cx + cy * 0x40`. -/
def ddramAddr (width : Nat) (x y : Byte) : BitVec 7 :=
  BitVec.ofNat 7 (clamp x width + clamp y Config.height * 0x40)

/-- The mandated minimum delays, in µs (R8): after the first, second and third forced 8-bit pulse, and after clear. -/
def delayPulse1 : Nat := 150000
def delayPulse2 : Nat := 4100
def delayPulse3 : Nat := 100
def delayClear : Nat := 2000

end Sys2Proof.Machine
end

