-- ==== Sys2Proof/Machine/Flags.lean ====
section
/-! DEFINITION. The control flags `CF` and the wire byte made of them (spec/10_state.md R24 to R26). The block has no condition codes other than
`RDY` (R20). -/

namespace Sys2Proof.Machine

/-- `DispCtlByte(CF)` of R24: `0x08 | (CF.D << 2) | (CF.C << 1) | CF.B`. -/
def dispCtlByte (cf : ControlFlags) : Byte :=
  0x08 ||| maskIf cf.d 0x04 ||| maskIf cf.c 0x02 ||| maskIf cf.b 0x01

/-- `CF.D <- v`; `CF.C` and `CF.B` are kept (R25). -/
def withDisplay (v : Bool) (cf : ControlFlags) : ControlFlags := { cf with d := v }

end Sys2Proof.Machine
end

