-- ==== Sys2Proof/Machine/Ops.lean ====
section
/-! DEFINITION. The named operations over the state: updates, event emission (spec/00_scope.md R12), the nibble transmitter and command encoder
(spec/40_transmit.md R103, R106), the bodies that CONSTRUCT shares with the display requests (spec/92_eei_decisions.md D25), how a request begins
and ends (spec/60_exceptions.md R210, R211), and reset (spec/70_reset_and_hazards.md R230).

There is no exception to take and none to return from (R200): the block has no trap, no saved state and no handler address. -/

namespace Sys2Proof.Machine

/-! Updates of one field each, `R <- v` of R13. -/

def State.withPhase (p : Phase) (s : State) : State := { s with phase := p }
def State.withRdy (v : Bool) (s : State) : State := { s with rdy := v }
def State.withAddr (a : Addr7) (s : State) : State := { s with addr := a }
def State.withCf (cf : ControlFlags) (s : State) : State := { s with cf := cf }
def State.withBl (v : Bool) (s : State) : State := { s with bl := v }
def State.withBusy (v : Bool) (s : State) : State := { s with busy := v }
def State.withInputs (l : List Input) (s : State) : State := { s with inputs := l }
def State.withAnswers (a : Answers) (s : State) : State := { s with answers := a }

/-- An event goes to the end of the trace (R12, R62). -/
def State.record (e : Event) (s : State) : State := { s with trace := s.trace ++ [e] }

/-- The transport's answer to the current `WRITE` is used up. -/
def State.popWriteAnswer (s : State) : State :=
  { s with answers := { s.answers with writes := s.answers.writes.tail } }

/-- The output `ready_o` (R31). Reading it has no side effect. -/
def State.readyO (s : State) : Bool := s.rdy

/-- The output `busy_o` (R31). Reading it has no side effect. -/
def State.busyO (s : State) : Bool := s.busy

/-- How far a request has come: on to its next event, or stuck in a `WRITE` that the transport never completes (R206). -/
inductive Run where
  | done (s : State)
  | hung (s : State)
  deriving DecidableEq, Repr

/-- The next part of a request, carried out once the part before it has completed (R62). -/
def Run.andThen (r : Run) (f : State → Run) : Run :=
  match r with
  | .done s => f s
  | .hung s => .hung s

/-- `emit` of R12. A `WRITE` uses one answer of the transport: its status is ignored (R205), and a `WRITE` that is never completed leaves the block
stuck with the event emitted (R206). A `WAIT` and a `PROBE` always complete (R58, R207; log entry 5). -/
def emit (e : Event) (s : State) : Run :=
  match e with
  | .write _ _ =>
    if s.answers.writes.head? = some .never then .hung (s.record e).popWriteAnswer
    else .done (s.record e).popWriteAnswer
  | .probe _ _ => .done (s.record e)
  | .wait _ => .done (s.record e)

/-- Events in order, each completed before the next is emitted (R62). -/
def emitAll : List Event → State → Run
  | [], s => .done s
  | e :: es, s => (emit e s).andThen (emitAll es)

/-- The four events of one enable pulse (R103, R105): enable set, wait, enable clear, wait. -/
def pulseEvents (cfg : Params) (addr : Addr7) (b : Byte) : List Event :=
  [.write addr (b ||| maskEn cfg.pins), .wait cfg.tWrUs, .write addr b, .wait cfg.tWrUs]

/-- `SendNibble` (R103). It reads `BL` itself (R102), and with `RDY` = 0 it emits nothing (R203). -/
def sendNibble (v : Nibble) (isData : Bool) (s : State) : Run :=
  if s.rdy then emitAll (pulseEvents s.cfg s.addr (nibbleByte s.cfg.pins v isData s.bl)) s
  else .done s

/-- `SendByte` (R106): the high nibble first. -/
def sendByte (v : Byte) (isData : Bool) (s : State) : Run :=
  (sendNibble (highNibble v) isData s).andThen (sendNibble (lowNibble v) isData)

/-- `SendCommand` (R106): register select clear. -/
def sendCommand (v : Byte) (s : State) : Run := sendByte v false s

/-- `SendData` (R106): register select set. -/
def sendData (c : Byte) (s : State) : Run := sendByte c true s

/-- `if RDY == 1: emit WAIT(t)` (R151). -/
def settle (t : Nat) (s : State) : Run :=
  if s.rdy then emit (.wait t) s else .done s

/-- What CLEAR does, also the action of `CFG_CLEAR` (R151, R130). -/
def clearBody (s : State) : Run := (sendCommand cmdClear s).andThen (settle delayClear)

/-- `SendCommand(DispCtlByte(CF))`: the whole combined byte of the current flags (R26). -/
def sendControl (s : State) : Run := sendCommand (dispCtlByte s.cf) s

/-- What BACKLIGHTON and BACKLIGHTOFF do, also the action of `INIT_BL_ON` (R155, R156, R132). -/
def backlightBody (v : Bool) (s : State) : Run := sendControl (s.withBl v)

/-- What DISPLAYON and DISPLAYOFF do, also the actions of `INIT_DISP_ON` and `CFG_DOFF` (R157, R158, R133, R129). -/
def displayBody (v : Bool) (s : State) : Run := sendControl (s.withCf (withDisplay v s.cf))

/-- `SendCommand(CMD_DDRAM(a))` with the clamped address (R153). -/
def setCursorBody (x y : Byte) (s : State) : Run := sendCommand (cmdDdram (ddramAddr s.cfg.width x y)) s

/-- The end of a request (R31): completed, `busy_o` falls and no answer is held; or stuck in it with `busy_o` = 1 (R206). -/
def finish (r : Run) : Host.Outcome State Fault Refusal :=
  match r with
  | .done s => .next ((s.withBusy false).withAnswers Answers.none)
  | .hung s => .next s

/-- The phases in which every request but CONSTRUCT is legal (R150, R211). -/
def displayLegal (p : Phase) : Bool := decide (p = .ready ∨ p = .abandoned)

/-- A request other than CONSTRUCT (R150, R211): carried out with `busy_o` = 1, or refused as `NOT_CONSTRUCTED`. -/
def displayRequest (body : State → Run) (s : State) : Host.Outcome State Fault Refusal :=
  if displayLegal s.phase then finish (body (s.withBusy true)) else .refused .notConstructed

/-- CONSTRUCT's legality (R211): carried out in `UNCONSTRUCTED`, else refused as `ALREADY_CONSTRUCTED`. -/
def constructRequest (body : State → Run) (s : State) : Host.Outcome State Fault Refusal :=
  if s.phase = .unconstructed then finish (body (s.withBusy true)) else .refused .alreadyConstructed

/-- Reset (R230, R32): every state element at its reset value, no event, the expander and the LCD left as they were. The parameters, the host's
coming moves and the events already emitted are no state of the block and stay. `ADDR` is unspecified and 0 here (log entry 7). -/
def State.applyReset (s : State) : State :=
  { State.reset with cfg := s.cfg, inputs := s.inputs, trace := s.trace }

end Sys2Proof.Machine
end

