-- ==== Sys2Proof/Machine/Character.lean ====
section
/-! DEFINITION. The character request (spec/42_display_ops.md R165). -/

namespace Sys2Proof.Machine

/-- `PRINTCHAR c` (R165): the byte unchanged, register select set on both nibbles. -/
def execPrintChar (c : Byte) (s : State) : Host.Outcome State Fault Refusal :=
  displayRequest (sendData c) s

end Sys2Proof.Machine
end

