-- ==== Sys2Proof/Machine/Display.lean ====
section
/-! DEFINITION. The display requests (spec/42_display_ops.md R150 to R160). Each is legal in `READY` and `ABANDONED`; in `ABANDONED`, `RDY` is 0, so the
updates happen and nothing is emitted (R150, R203). -/

namespace Sys2Proof.Machine

/-- `CLEAR` (R151). -/
def execClear (s : State) : Host.Outcome State Fault Refusal :=
  displayRequest clearBody s

/-- `SETCURSOR x, y` (R153). -/
def execSetCursor (x y : Byte) (s : State) : Host.Outcome State Fault Refusal :=
  displayRequest (setCursorBody x y) s

/-- `BACKLIGHTON` (R155). -/
def execBacklightOn (s : State) : Host.Outcome State Fault Refusal :=
  displayRequest (backlightBody true) s

/-- `BACKLIGHTOFF` (R156). -/
def execBacklightOff (s : State) : Host.Outcome State Fault Refusal :=
  displayRequest (backlightBody false) s

/-- `DISPLAYON` (R157). -/
def execDisplayOn (s : State) : Host.Outcome State Fault Refusal :=
  displayRequest (displayBody true) s

/-- `DISPLAYOFF` (R158). -/
def execDisplayOff (s : State) : Host.Outcome State Fault Refusal :=
  displayRequest (displayBody false) s

end Sys2Proof.Machine
end

