-- ==== Sys2Proof/Machine/Init.lean ====
section
/-! DEFINITION. CONSTRUCT and the initialization sequencer (spec/41_init.md R120 to R138): one definition per sequencer state. -/

namespace Sys2Proof.Machine

/-- One forced 8-bit pulse and its mandated delay (R124 to R126; the delay follows the pulse, C3 and D11). -/
def forcePulse (p : Phase) (t : Nat) (s : State) : Run :=
  (sendNibble nibFs8 false (s.withPhase p)).andThen (emit (.wait t))

/-- `F8_1` (R124). -/
def initF8First (s : State) : Run := forcePulse .f8First delayPulse1 s

/-- `F8_2` (R125). -/
def initF8Second (s : State) : Run := forcePulse .f8Second delayPulse2 s

/-- `F8_3` (R126). -/
def initF8Third (s : State) : Run := forcePulse .f8Third delayPulse3 s

/-- `SW4` (R127): one nibble, no protocol wait. -/
def initSwitch4 (s : State) : Run := sendNibble nibFs4 false (s.withPhase .sw4)

/-- `CFG_FUNC` (R128). -/
def initCfgFunc (s : State) : Run := sendCommand cmdFunc (s.withPhase .cfgFunc)

/-- `CFG_DOFF` (R129): the action of DISPLAYOFF. -/
def initCfgDispOff (s : State) : Run := displayBody false (s.withPhase .cfgDispOff)

/-- `CFG_CLEAR` (R130): the action of CLEAR. -/
def initCfgClear (s : State) : Run := clearBody (s.withPhase .cfgClear)

/-- `CFG_ENTRY` (R131). -/
def initCfgEntry (s : State) : Run := sendCommand cmdEntry (s.withPhase .cfgEntry)

/-- `INIT_BL_ON` (R132): the action of BACKLIGHTON. -/
def initBacklightOn (s : State) : Run := backlightBody true (s.withPhase .initBlOn)

/-- `INIT_DISP_ON` (R133): the action of DISPLAYON. -/
def initDisplayOn (s : State) : Run := displayBody true (s.withPhase .initDispOn)

/-- `READY` (R134). -/
def initReady (s : State) : Run := .done (s.withPhase .ready)

/-- The sequencer after a successful probe: strictly sequential, no backward transition (R120, R21). -/
def initSequence (s : State) : Run :=
  (((((((((initF8First s).andThen initF8Second).andThen initF8Third).andThen initSwitch4).andThen
    initCfgFunc).andThen initCfgDispOff).andThen initCfgClear).andThen initCfgEntry).andThen
    initBacklightOn).andThen fun s => (initDisplayOn s).andThen initReady

/-- `POWER_ON` (R121 to R123): one PROBE, no wait before it. An answer of 1 sets `RDY` and runs the sequencer; an answer of 0 ends in `ABANDONED`, with
`RDY` left as it is and nothing more emitted. -/
def constructBody (addr : Addr7) (s : State) : Run :=
  let r := s.answers.probe
  (emit (.probe addr r) ((s.withAddr addr).withPhase .powerOn)).andThen fun s =>
    if r then initSequence (s.withRdy true) else .done (s.withPhase .abandoned)

/-- `CONSTRUCT addr` (R120). -/
def execConstruct (addr : Addr7) (s : State) : Host.Outcome State Fault Refusal :=
  constructRequest (constructBody addr) s

end Sys2Proof.Machine
end

