-- ==== Sys2Proof/Machine/Dispatch.lean ====
section
/-! DEFINITION. One arm per request of spec/30_encoding.md R72: what it does when the block takes it. -/

namespace Sys2Proof.Machine

def exec (i : Instr) (s : State) : Host.Outcome State Fault Refusal :=
  match i with
  | .construct addr => Sys2Proof.Machine.execConstruct addr s
  | .clear => Sys2Proof.Machine.execClear s
  | .setCursor x y => Sys2Proof.Machine.execSetCursor x y s
  | .backlightOn => Sys2Proof.Machine.execBacklightOn s
  | .backlightOff => Sys2Proof.Machine.execBacklightOff s
  | .displayOn => Sys2Proof.Machine.execDisplayOn s
  | .displayOff => Sys2Proof.Machine.execDisplayOff s
  | .printChar c => Sys2Proof.Machine.execPrintChar c s

end Sys2Proof.Machine
end

