-- ==== Sys2Proof/Machine/HostPort.lean ====
section
/-! DEFINITION. How the block takes one move of the host (spec/60_exceptions.md R210 to R213, R222; spec/70_reset_and_hazards.md R230, R231, R233). -/

namespace Sys2Proof.Machine

/-- `Step(w)` of R211: decode, refuse a reserved word before any other check (R212), else run the request. -/
def runWord (w : ReqWord) (s : State) : Host.Outcome State Fault Refusal :=
  match decode w with
  | .error _ => .refused .reservedRequest
  | .ok i => exec i s

/-- A request word at the input: not accepted while busy (R213, R222), else consumed (R64) with the transport's answers to it (R14). -/
def takeRequest (w : ReqWord) (a : Answers) (s : State) : Host.Outcome State Fault Refusal :=
  if s.busy then .refused .requestWhileBusy else runWord w (s.withAnswers a)

/-- Reset at the input: honoured while not busy (R230), no step while busy (R233). -/
def takeReset (s : State) : Host.Outcome State Fault Refusal :=
  if s.busy then .fault .resetWhileBusy else .next s.applyReset

/-- No move of the host: the block waits and runs nothing by itself (R231); stuck in a request, it has no step (R206). -/
def waitForHost (s : State) : Host.Outcome State Fault Refusal :=
  if s.busy then .fault .transportHang else .next s

/-- The host's oldest move, taken off its list. Reset takes priority over a word presented with it, which is not accepted (R213). -/
def takeInput (m : Input) (s : State) : Host.Outcome State Fault Refusal :=
  match m with
  | .request w a => takeRequest w a s
  | .reset _ => takeReset s

/-- The transport's answers that come with a table word: the expander answers the probe and every WRITE completes. An input, not a value of the
block (log entry 12). -/
def respondingTransport : Answers := { probe := true, writes := [] }

/-- The state in which the host's next move is to present `w`, with a transport that responds. -/
def State.presentWord (w : ReqWord) (s : State) : State :=
  s.withInputs (.request w respondingTransport :: s.inputs)

end Sys2Proof.Machine
end

