-- ==== Sys2Proof/Machine/Step.lean ====
section
/-! DEFINITION. One step of the block (spec/00_scope.md R14): it takes the host's next move, carries a request out to completion, and is idle again. -/

namespace Sys2Proof.Machine

/-- One step: the host's oldest move, or waiting for one. -/
def step (s : State) : Host.Outcome State Fault Refusal :=
  match s.inputs with
  | [] => waitForHost s
  | m :: rest => takeInput m (s.withInputs rest)

/-- The state in which the next word that `step` takes is the table word `w`, of 20 bits (R71). The block fetches nothing (R64): the host presents the word.
Log entry 12 says how a program comes to run from reset. -/
def State.withFetchWord (s : State) (_nbits w : Nat) : State :=
  s.presentWord (BitVec.ofNat 20 w)

end Sys2Proof.Machine
end

