-- ==== Sys2Proof/Machine/Assembler.lean ====
section
/-! DEFINITION. The assembler text of spec/30_encoding.md R77: one request a line, a mnemonic, then its operands separated by commas; numbers decimal or
hexadecimal after `0x`; a character in single quotes for its ASCII byte; `PRINT` with its text in double quotes. The rule says nothing of blanks and
escapes: blanks between tokens are skipped, a `;` outside quotes begins a remark as in the rule's own listing, there are no escapes, and a quoted
character outside ASCII does not assemble (DESIGN CHOICE, safe: log entry 16). It has no effect on what a request does (D28). -/

namespace Sys2Proof.Machine

/-- A token of a line. -/
inductive AsmToken where
  | word (cs : List Char)
  | comma
  | chr (c : Char)
  | text (cs : List Char)
  deriving DecidableEq, Repr

/-- The single quote. -/
def quoteChar : Char := Char.ofNat 39

/-- The double quote. -/
def textQuote : Char := Char.ofNat 34

/-- A blank between tokens. -/
def isBlank (c : Char) : Bool := c == ' ' || c == '\t'

/-- Adds a finished word to the tokens read so far (both in reverse order). -/
def closeWord (word : List Char) (out : List AsmToken) : List AsmToken :=
  if word.isEmpty then out else .word word.reverse :: out

/-- Where the reader of a line stands. -/
inductive AsmMode where
  /-- Outside quotes, with the letters of the current word in reverse. -/
  | plain (word : List Char)
  /-- After an opening single quote. -/
  | chrOpen
  /-- After the character, before the closing single quote. -/
  | chrClose (c : Char)
  /-- Inside a text, its letters in reverse. -/
  | text (cs : List Char)
  deriving DecidableEq, Repr

/-- The tokens of a line, or none where a quote is not closed. -/
def tokenize : AsmMode → List AsmToken → List Char → Option (List AsmToken)
  | .plain word, out, [] => some (closeWord word out).reverse
  | .plain word, out, c :: cs =>
    if c == ';' then some (closeWord word out).reverse
    else if isBlank c then tokenize (.plain []) (closeWord word out) cs
    else if c == ',' then tokenize (.plain []) (.comma :: closeWord word out) cs
    else if c == quoteChar then tokenize .chrOpen (closeWord word out) cs
    else if c == textQuote then tokenize (.text []) (closeWord word out) cs
    else tokenize (.plain (c :: word)) out cs
  | .chrOpen, out, c :: cs => tokenize (.chrClose c) out cs
  | .chrClose c, out, q :: cs => if q == quoteChar then tokenize (.plain []) (.chr c :: out) cs else none
  | .text t, out, c :: cs =>
    if c == textQuote then tokenize (.plain []) (.text t.reverse :: out) cs else tokenize (.text (c :: t)) out cs
  | .chrOpen, _, [] => none
  | .chrClose _, _, [] => none
  | .text _, _, [] => none

/-- The value of a digit in the given base. -/
def digitValue (base : Nat) (c : Char) : Option Nat :=
  let n := c.toNat
  let v := if 48 ≤ n ∧ n ≤ 57 then n - 48 else if 97 ≤ n ∧ n ≤ 102 then n - 87 else if 65 ≤ n ∧ n ≤ 70 then n - 55 else base
  if v < base then some v else none

/-- The number that the digits say, continuing from `acc`. -/
def readDigits (base acc : Nat) : List Char → Option Nat
  | [] => some acc
  | c :: cs =>
    match digitValue base c with
    | some d => readDigits base (acc * base + d) cs
    | none => none

/-- A number: decimal, or hexadecimal with the prefix `0x` (R77). -/
def readNumber : List Char → Option Nat
  | [] => none
  | '0' :: 'x' :: c :: cs => readDigits 16 0 (c :: cs)
  | c :: cs => readDigits 10 0 (c :: cs)

/-- The byte of a quoted character: its ASCII code (R77, G5). -/
def asciiByte (c : Char) : Option Nat := if c.toNat < 128 then some c.toNat else none

/-- The bytes of a quoted text, in text order (R57, R78). -/
def asciiBytes (cs : List Char) : Option (List Byte) :=
  cs.mapM fun c => (asciiByte c).map (BitVec.ofNat 8)

/-- The line that the tokens of one request say (R77). -/
def readRequest (mnemonic : List Char) (operands : List AsmToken) : Option AsmLine :=
  let plain (l : AsmLine) : Option AsmLine := if operands.isEmpty then some l else none
  if mnemonic = "CONSTRUCT".toList then
    match operands with
    | [.word a] => (readNumber a).map .construct
    | _ => none
  else if mnemonic = "SETCURSOR".toList then
    match operands with
    | [.word x, .comma, .word y] => (readNumber x).bind fun m => (readNumber y).map fun n => .setCursor m n
    | _ => none
  else if mnemonic = "PRINTCHAR".toList then
    match operands with
    | [.word c] => (readNumber c).map .printChar
    | [.chr c] => (asciiByte c).map .printChar
    | _ => none
  else if mnemonic = "PRINT".toList then
    match operands with
    | [.text t] => (asciiBytes t).map .print
    | _ => none
  else if mnemonic = "CLEAR".toList then plain .clear
  else if mnemonic = "BACKLIGHTON".toList then plain .backlightOn
  else if mnemonic = "BACKLIGHTOFF".toList then plain .backlightOff
  else if mnemonic = "DISPLAYON".toList then plain .displayOn
  else if mnemonic = "DISPLAYOFF".toList then plain .displayOff
  else none

/-- A line of text: `some none` for a line that holds no request, `none` for one that does not read. -/
def parseLine (line : String) : Option (Option AsmLine) :=
  match tokenize (.plain []) [] line.toList with
  | none => none
  | some [] => some none
  | some (.word m :: operands) => (readRequest m operands).map some
  | some (_ :: _) => none

/-- The request words of one line of text (R77, R78). -/
def assembleLine (line : String) : Option (List ReqWord) :=
  match parseLine line with
  | none => none
  | some none => some []
  | some (some l) => assemble l

end Sys2Proof.Machine
end

