-- ==== Sys2Proof/Safety.lean ====
section
/-! DEFINITION. What a safe run of the block is, in the terms that the claims use: the opcode map, legality, the events that the rules name, the invariants,
and what an observer at the expander's outputs sees. Nothing here is part of a step. -/

namespace Sys2Proof.Machine

/-! ## The opcode map (R72) -/

/-- One row of R72: a word is of the row when `(w & mask) == value`. -/
structure OpcodeRow where
  value : ReqWord
  mask : ReqWord
  deriving DecidableEq, Repr

/-- The row of R72 of each request. -/
def opcodeRow : Instr → OpcodeRow
  | .construct _ => { value := 0x00000, mask := 0xFFF80 }
  | .clear => { value := 0x10000, mask := 0xFFFFF }
  | .setCursor _ _ => { value := 0x20000, mask := 0xF0000 }
  | .backlightOn => { value := 0x30000, mask := 0xFFFFF }
  | .backlightOff => { value := 0x40000, mask := 0xFFFFF }
  | .displayOn => { value := 0x50000, mask := 0xFFFFF }
  | .displayOff => { value := 0x60000, mask := 0xFFFFF }
  | .printChar _ => { value := 0x70000, mask := 0xFFF00 }

/-- All eight rows of R72. -/
def opcodeRows : List OpcodeRow :=
  [opcodeRow (.construct 0), opcodeRow .clear, opcodeRow (.setCursor 0 0), opcodeRow .backlightOn, opcodeRow .backlightOff,
   opcodeRow .displayOn, opcodeRow .displayOff, opcodeRow (.printChar 0)]

/-- A word is of a row (R72). -/
def OpcodeRow.selects (r : OpcodeRow) (w : ReqWord) : Bool := w &&& r.mask == r.value

/-- The operands of a request are the fields of its word (R73). -/
def operandsAre (i : Instr) (w : ReqWord) : Prop :=
  match i with
  | .construct addr => addr = w.extractLsb' 0 7
  | .clear => True
  | .setCursor x y => x = w.extractLsb' 0 8 ∧ y = w.extractLsb' 8 8
  | .backlightOn => True
  | .backlightOff => True
  | .displayOn => True
  | .displayOff => True
  | .printChar c => c = w.extractLsb' 0 8

/-! ## Legality (R211) -/

/-- `Legal` of R211 for a decoded request. -/
def legal (i : Instr) (p : Phase) : Bool :=
  match i with
  | .construct _ => decide (p = .unconstructed)
  | .clear => displayLegal p
  | .setCursor _ _ => displayLegal p
  | .backlightOn => displayLegal p
  | .backlightOff => displayLegal p
  | .displayOn => displayLegal p
  | .displayOff => displayLegal p
  | .printChar _ => displayLegal p

/-- Why an illegal request is refused (R211). -/
def refusalOf : Instr → Refusal
  | .construct _ => .alreadyConstructed
  | .clear => .notConstructed
  | .setCursor _ _ => .notConstructed
  | .backlightOn => .notConstructed
  | .backlightOff => .notConstructed
  | .displayOn => .notConstructed
  | .displayOff => .notConstructed
  | .printChar _ => .notConstructed

/-- The request is CONSTRUCT. -/
def isConstruct : Instr → Bool
  | .construct _ => true
  | .clear => false
  | .setCursor _ _ => false
  | .backlightOn => false
  | .backlightOff => false
  | .displayOn => false
  | .displayOff => false
  | .printChar _ => false

/-! ## The transport -/

/-- The transport completes every `WRITE` of the request (R222). -/
abbrev TransportCompletes (s : State) : Prop := WriteAnswer.never ∉ s.answers.writes

/-- The state in which a request that emitted `es` has completed: `busy_o` is 0 and no answer is held. -/
def State.completed (es : List Event) (s : State) : State :=
  { s with busy := false, answers := Answers.none, trace := s.trace ++ es }

/-! ## The events that the rules name -/

/-- The eight events of a byte (R106): the pulse of its high nibble, then the pulse of its low nibble. -/
def byteEvents (cfg : Params) (addr : Addr7) (bl : Bool) (v : Byte) (isData : Bool) : List Event :=
  pulseEvents cfg addr (nibbleByte cfg.pins (highNibble v) isData bl) ++
    pulseEvents cfg addr (nibbleByte cfg.pins (lowNibble v) isData bl)

/-- The events of a byte that the block sends in state `s`: none where `RDY` is 0 (R103, R203). -/
def State.byteEvents (s : State) (v : Byte) (isData : Bool) : List Event :=
  if s.rdy then Machine.byteEvents s.cfg s.addr s.bl v isData else []

/-- The wait that CLEAR ends with (R151): none where `RDY` is 0 (R203). -/
def State.waitEvents (s : State) (t : Nat) : List Event := if s.rdy then [.wait t] else []

/-- The state that a display request writes, before it emits anything: its rule's 'State written' (R151 to R165). CONSTRUCT has rules of its own. -/
def requestUpdate (i : Instr) (s : State) : State :=
  match i with
  | .construct _ => s
  | .clear => s
  | .setCursor _ _ => s
  | .backlightOn => s.withBl true
  | .backlightOff => s.withBl false
  | .displayOn => s.withCf (withDisplay true s.cf)
  | .displayOff => s.withCf (withDisplay false s.cf)
  | .printChar _ => s

/-- The events of a display request in the state that `requestUpdate` gives (R151 to R165). -/
def requestEvents (i : Instr) (s : State) : List Event :=
  match i with
  | .construct _ => []
  | .clear => s.byteEvents cmdClear false ++ s.waitEvents delayClear
  | .setCursor x y => s.byteEvents (cmdDdram (ddramAddr s.cfg.width x y)) false
  | .backlightOn => s.byteEvents (dispCtlByte s.cf) false
  | .backlightOff => s.byteEvents (dispCtlByte s.cf) false
  | .displayOn => s.byteEvents (dispCtlByte s.cf) false
  | .displayOff => s.byteEvents (dispCtlByte s.cf) false
  | .printChar c => s.byteEvents c true

/-- The events of CONSTRUCT with a probe answer of 1 (the trace of R135), begun with the flags `cf` and the backlight bit `bl`. -/
def initEvents (cfg : Params) (addr : Addr7) (cf : ControlFlags) (bl : Bool) : List Event :=
  let nibble (v : Nibble) : List Event := pulseEvents cfg addr (nibbleByte cfg.pins v false bl)
  let off := withDisplay false cf
  [.probe addr true] ++
    nibble nibFs8 ++ [.wait 150000] ++
    nibble nibFs8 ++ [.wait 4100] ++
    nibble nibFs8 ++ [.wait 100] ++
    nibble nibFs4 ++
    Machine.byteEvents cfg addr bl cmdFunc false ++
    Machine.byteEvents cfg addr bl (dispCtlByte off) false ++
    (Machine.byteEvents cfg addr bl cmdClear false ++ [.wait 2000]) ++
    Machine.byteEvents cfg addr bl cmdEntry false ++
    Machine.byteEvents cfg addr true (dispCtlByte off) false ++
    Machine.byteEvents cfg addr true (dispCtlByte (withDisplay true cf)) false

/-! ## Counting events (R238) -/

def Event.isProbe : Event → Bool
  | .probe _ _ => true
  | .write _ _ => false
  | .wait _ => false

def Event.isWrite : Event → Bool
  | .write _ _ => true
  | .probe _ _ => false
  | .wait _ => false

def Event.isWait : Event → Bool
  | .wait _ => true
  | .probe _ _ => false
  | .write _ _ => false

/-- The lower bound of a `WAIT`, in µs; 0 for another event. -/
def Event.waitBound : Event → Nat
  | .wait t => t
  | .probe _ _ => 0
  | .write _ _ => 0

/-- The sum of the `WAIT` lower bounds (R238). -/
def waitSum (es : List Event) : Nat := (es.map Event.waitBound).sum

/-! ## Invariants -/

/-- The phases in which `RDY` is 1: a probe has answered 1 since reset (R21, R22, R122). -/
def rdyPhase : Phase → Bool
  | .unconstructed => false
  | .powerOn => false
  | .f8First => true
  | .f8Second => true
  | .f8Third => true
  | .sw4 => true
  | .cfgFunc => true
  | .cfgDispOff => true
  | .cfgClear => true
  | .cfgEntry => true
  | .initBlOn => true
  | .initDispOn => true
  | .ready => true
  | .abandoned => false

/-- The phases visible between requests (R21). -/
def visiblePhase (p : Phase) : Bool := decide (p = .unconstructed ∨ p = .ready ∨ p = .abandoned)

/-- The place of a phase in the source's order (R21): transitions go only forward. -/
def phaseRank : Phase → Nat
  | .unconstructed => 0
  | .powerOn => 1
  | .f8First => 2
  | .f8Second => 3
  | .f8Third => 4
  | .sw4 => 5
  | .cfgFunc => 6
  | .cfgDispOff => 7
  | .cfgClear => 8
  | .cfgEntry => 9
  | .initBlOn => 10
  | .initDispOn => 11
  | .ready => 12
  | .abandoned => 13

/-- What holds of the block's state in every run. -/
structure Inv (s : State) : Prop where
  /-- R22: `RDY` is 1 exactly after a successful probe. -/
  rdy : s.rdy = rdyPhase s.phase
  /-- R21: between two requests `PHASE` is one of the three visible values. -/
  visible : s.busy = false → visiblePhase s.phase = true
  /-- R203, R206: a block that is stuck in a `WRITE` emitted it, so `RDY` is 1. -/
  stuckReady : s.busy = true → s.rdy = true
  /-- R25: `CF.C` and `CF.B` keep their reset value. -/
  cursorBlink : s.cf.c = false ∧ s.cf.b = false
  /-- R27, R32: before `INIT_BL_ON` the backlight bit and the display flag are 0. -/
  dark : phaseRank s.phase < 10 → s.bl = false ∧ s.cf.d = false

/-- R105: each `WRITE` is followed at once by `WAIT(t)`. -/
def paced (t : Nat) : List Event → Bool
  | [] => true
  | .write _ _ :: .wait u :: es => decide (u = t) && paced t es
  | .write _ _ :: _ => false
  | .probe _ _ :: es => paced t es
  | .wait _ :: es => paced t es

/-- R105 for the trace of a state: paced between requests; a block stuck in a `WRITE` has emitted it last, with no `WAIT` after it (log entry 4). -/
def TracePaced (s : State) : Prop :=
  if s.busy then ∃ es a b, s.trace = es ++ [.write a b] ∧ paced s.cfg.tWrUs es = true
  else paced s.cfg.tWrUs s.trace = true

/-- The move is a reset. -/
def Input.isReset : Input → Bool
  | .reset _ => true
  | .request _ _ => false

/-! ## Forgetting the write statuses (R205) -/

def WriteAnswer.forget : WriteAnswer → WriteAnswer
  | .completed _ => .completed 0
  | .never => .never

def Answers.forget (a : Answers) : Answers := { a with writes := a.writes.map WriteAnswer.forget }

def Input.forget : Input → Input
  | .request w a => .request w a.forget
  | .reset w => .reset w

/-- The state with every status that the transport returns or will return set to 0. -/
def State.forget (s : State) : State :=
  { s with answers := s.answers.forget, inputs := s.inputs.map Input.forget }

/-- An outcome whose next state has its statuses forgotten. -/
def forgetOutcome (o : Host.Outcome State Fault Refusal) : Host.Outcome State Fault Refusal :=
  match o with
  | .next s => .next s.forget
  | .fault r => .fault r
  | .refused r => .refused r

/-! ## What an observer at the expander's outputs sees (R51, R60, R61) -/

/-- The expander's output byte after the events, where any `WRITE` has set it: the outputs hold until the next `WRITE` (R51). -/
def expanderPort : List Event → Option Byte
  | [] => none
  | .write _ b :: es => (expanderPort es).or (some b)
  | .probe _ _ :: es => expanderPort es
  | .wait _ :: es => expanderPort es

/-- The nibble that the LCD's data pins D4 to D7 show (R51, R56). -/
def dataPins (p : PinAssignment) (b : Byte) : Nibble :=
  BitVec.ofNat 4 ((b.getLsbD p.d4).toNat + 2 * (b.getLsbD p.d5).toNat + 4 * (b.getLsbD p.d6).toNat + 8 * (b.getLsbD p.d7).toNat)

/-- The nibbles that the LCD latches, each with its register select: one at every fall of the enable pin (R60, R61). `en` is the pin's level before
the events. -/
def latches (p : PinAssignment) (en : Bool) : List Event → List (Bool × Nibble)
  | [] => []
  | .write _ b :: es =>
    let now := b.getLsbD p.en
    if en && !now then (b.getLsbD p.rs, dataPins p b) :: latches p now es else latches p now es
  | .probe _ _ :: es => latches p en es
  | .wait _ :: es => latches p en es

/-- The two nibbles of a byte, high first (R55). -/
def nibblesOf (x : Bool × Byte) : List (Bool × Nibble) := [(x.1, highNibble x.2), (x.1, lowNibble x.2)]

/-- The nibbles that the LCD is to latch from a request that completes with `RDY` = 1, begun in state `s` (R86, R120, R151 to R165). -/
def lcdNibbles (i : Instr) (s : State) : List (Bool × Nibble) :=
  match i with
  | .construct _ =>
    [(false, nibFs8), (false, nibFs8), (false, nibFs8), (false, nibFs4)] ++
      [(false, cmdFunc), (false, dispCtlByte (withDisplay false s.cf)), (false, cmdClear), (false, cmdEntry),
       (false, dispCtlByte (withDisplay false s.cf)), (false, dispCtlByte (withDisplay true s.cf))].flatMap nibblesOf
  | .clear => nibblesOf (false, cmdClear)
  | .setCursor x y => nibblesOf (false, cmdDdram (ddramAddr s.cfg.width x y))
  | .backlightOn => nibblesOf (false, dispCtlByte s.cf)
  | .backlightOff => nibblesOf (false, dispCtlByte s.cf)
  | .displayOn => nibblesOf (false, dispCtlByte (withDisplay true s.cf))
  | .displayOff => nibblesOf (false, dispCtlByte (withDisplay false s.cf))
  | .printChar c => nibblesOf (true, c)

/-- The number of set bits (R11). -/
def popcount {n : Nat} (v : BitVec n) : Nat := (List.range n).countP fun k => v.getLsbD k

/-! ## Presenting a text (R78, R170) -/

/-- The host's moves that present the words, each with its transport answers. -/
def presentations (words : List ReqWord) (a : Answers) : List Input := words.map fun w => .request w a

end Sys2Proof.Machine
end

