-- ==== Sys2Proof/Certificates/Slice0/Obligations.lean ====
section
/-! DEFINITION. The statements for the provers, from the numbered rules of spec/. A state is any state, reached or not, unless a hypothesis says otherwise; every
well-formed configuration is meant (`State.cfg`). How a state holds the transport's answers is the model's own form (log entries 2, 3 and 5). `s.phase = .ready ∨ s.phase = .abandoned` is the legality of R150. -/

open Sys2Proof Sys2Proof.Machine Host

/-! ## Encodings (30_encoding.md) -/

/-- Words written out from R72 and the vectors V10 to V31 decode to the requests they stand for, or are reserved. -/
def Obligations.EncodingTableWordsDecode : Prop :=
  decode 0x00027 = .ok (.construct 0x27) ∧ decode 0x0007F = .ok (.construct 0x7F) ∧
    decode 0x10000 = .ok .clear ∧ decode 0x20103 = .ok (.setCursor 3 1) ∧ decode 0x20514 = .ok (.setCursor 20 5) ∧
    decode 0x30000 = .ok .backlightOn ∧ decode 0x40000 = .ok .backlightOff ∧
    decode 0x50000 = .ok .displayOn ∧ decode 0x60000 = .ok .displayOff ∧ decode 0x70041 = .ok (.printChar 0x41) ∧
    decode 0x00080 = .error .mustBeZero ∧ decode 0x00127 = .error .mustBeZero ∧ decode 0x10001 = .error .mustBeZero ∧
    decode 0x30100 = .error .mustBeZero ∧ decode 0x70141 = .error .mustBeZero ∧ decode 0x80000 = .error .opcode ∧
    decode 0xF0000 = .error .opcode

/-- Decode and encode agree: every request, with every operand, is read back from its word. -/
def Obligations.DecodeOfEncodeIsTheRequest : Prop :=
  ∀ i : Instr, decode (encode i) = .ok i

/-- The other direction: a word that decodes is the encoder's word of what it decodes to, so each request has one word. -/
def Obligations.EncodeOfDecodeIsTheWord : Prop :=
  ∀ (w : ReqWord) (i : Instr), decode w = .ok i → encode i = w

/-- R75: the decoder returns the row whose match and mask fit the word, with the operands of R73, and a reserved word where no row fits. -/
def Obligations.DecodeReturnsTheFittingRow : Prop :=
  (∀ (w : ReqWord) (i : Instr), decode w = .ok i ↔ (opcodeRow i).selects w = true ∧ operandsAre i w) ∧
    ∀ w : ReqWord, (∃ e, decode w = .error e) ↔ ∀ r ∈ opcodeRows, r.selects w = false

/-- R78: a text expands to one PRINTCHAR word per byte, in order; no byte ends it early and the empty text is no word. -/
def Obligations.PrintExpandsToOneRequestPerByte : Prop :=
  ∀ text : List Byte, (printWords text).map decode = text.map fun c => .ok (.printChar c)

/-- The operand ranges of R77: a line assembles exactly when its operands are in range, and its operands are the numbers written. -/
def Obligations.AssemblerTakesOperandsInRange : Prop :=
  (∀ n, (assemble (.construct n)).isSome = true ↔ n ≤ 127) ∧
    (∀ x y, (assemble (.setCursor x y)).isSome = true ↔ x ≤ 255 ∧ y ≤ 255) ∧
    (∀ c, (assemble (.printChar c)).isSome = true ↔ c ≤ 255) ∧
    (∀ n ≤ 127, ∃ a : Addr7, a.toNat = n ∧ (assemble (.construct n)).map (List.map decode) = some [.ok (.construct a)]) ∧
    (∀ x ≤ 255, ∀ y ≤ 255, ∃ a b : Byte, a.toNat = x ∧ b.toNat = y ∧
      (assemble (.setCursor x y)).map (List.map decode) = some [.ok (.setCursor a b)]) ∧
    ∀ c ≤ 255, ∃ a : Byte, a.toNat = c ∧ (assemble (.printChar c)).map (List.map decode) = some [.ok (.printChar a)]

/-! ## Transmit path (30_encoding.md section 2, 40_transmit.md) -/

/-- The three properties of R101, for every assignment that R6 allows. -/
def Obligations.PinMapUsesOnePinPerSetBit : Prop :=
  ∀ p : PinAssignment, p.Distinct →
    (∀ v : Nibble, popcount (pinMap p v) = popcount v) ∧
      (∀ v : Nibble, pinMap p v &&& (maskRs p ||| maskEn p ||| maskBl p ||| bit (pinFree p)) = 0) ∧
      ∀ v v' : Nibble, pinMap p v = pinMap p v' → v = v'

/-- R79: the value of each of the eight expander bits, in the first write of a pulse (enable set) and in the second. -/
def Obligations.ExpanderByteHasTheNamedBits : Prop :=
  ∀ p : PinAssignment, p.Distinct →
    (∀ k : Fin 8, k ∉ p.assigned ↔ k = pinFree p) ∧
      ∀ (v : Nibble) (isData bl : Bool), ∀ b ∈ [nibbleByte p v isData bl ||| maskEn p, nibbleByte p v isData bl],
        b.getLsbD p.d4 = v.getLsbD 0 ∧ b.getLsbD p.d5 = v.getLsbD 1 ∧ b.getLsbD p.d6 = v.getLsbD 2 ∧ b.getLsbD p.d7 = v.getLsbD 3 ∧
          b.getLsbD p.rs = isData ∧ b.getLsbD p.bl = bl ∧ b.getLsbD (pinFree p) = false ∧
          (nibbleByte p v isData bl ||| maskEn p).getLsbD p.en = true ∧ (nibbleByte p v isData bl).getLsbD p.en = false

/-- R103: SendNibble with `RDY` = 1 and a transport that completes both writes; nothing with `RDY` = 0. -/
def Obligations.SendNibbleIsOneEnablePulse : Prop :=
  ∀ (v : Nibble) (isData : Bool) (s : State), let b := nibbleByte s.cfg.pins v isData s.bl
    (s.rdy = true → TransportCompletes s →
      sendNibble v isData s = .done { s with
        trace := s.trace ++ [.write s.addr (b ||| maskEn s.cfg.pins), .wait s.cfg.tWrUs, .write s.addr b, .wait s.cfg.tWrUs]
        answers := { s.answers with writes := s.answers.writes.drop 2 } }) ∧
    (s.rdy = false → sendNibble v isData s = .done s)

/-- R206 inside SendNibble: stuck in the first or in the second write, with that write emitted (the model's form of a stuck block: log entry 4). -/
def Obligations.SendNibbleHangsInTheUnansweredWrite : Prop :=
  ∀ (v : Nibble) (isData : Bool) (s : State), s.rdy = true → let b := nibbleByte s.cfg.pins v isData s.bl
    (∀ rest, s.answers.writes = .never :: rest →
      sendNibble v isData s = .hung { s with
        trace := s.trace ++ [.write s.addr (b ||| maskEn s.cfg.pins)]
        answers := { s.answers with writes := rest } }) ∧
    (∀ st rest, s.answers.writes = .completed st :: .never :: rest →
      sendNibble v isData s = .hung { s with
        trace := s.trace ++ [.write s.addr (b ||| maskEn s.cfg.pins), .wait s.cfg.tWrUs, .write s.addr b]
        answers := { s.answers with writes := rest } })

/-- R106: a byte goes out as two nibbles, `v >> 4` first and `v & 0xF` second, with the same register select; with `RDY` = 0 nothing goes out. -/
def Obligations.SendByteSendsHighNibbleFirst : Prop :=
  (∀ v : Byte, (highNibble v).toNat = v.toNat / 16 ∧ (lowNibble v).toNat = v.toNat % 16) ∧
    (∀ (v : Byte) (s : State), sendCommand v s = sendByte v false s ∧ sendData v s = sendByte v true s) ∧
    ∀ (v : Byte) (isData : Bool) (s : State),
      (s.rdy = true → TransportCompletes s →
        sendByte v isData s = .done { s with
          trace := s.trace ++ (pulseEvents s.cfg s.addr (nibbleByte s.cfg.pins (highNibble v) isData s.bl) ++
            pulseEvents s.cfg s.addr (nibbleByte s.cfg.pins (lowNibble v) isData s.bl))
          answers := { s.answers with writes := s.answers.writes.drop 4 } }) ∧
      (s.rdy = false → sendByte v isData s = .done s)

/-- The wire byte of the control flags and the command values. The numeric values are general knowledge in the spec itself (log entry 11). -/
def Obligations.CommandBytesAreTheStandardOnes : Prop :=
  (∀ cf : ControlFlags, (dispCtlByte cf).toNat = 8 + 4 * cf.d.toNat + 2 * cf.c.toNat + cf.b.toNat) ∧
    cmdClear = 0x01 ∧ cmdEntry = 0x06 ∧ cmdFunc = 0x28 ∧ nibFs8 = 0x3 ∧ nibFs4 = 0x2 ∧
    ∀ a : BitVec 7, (cmdDdram a).toNat = 0x80 + a.toNat

/-! ## CONSTRUCT (41_init.md) -/

/-- R120: CONSTRUCT in `UNCONSTRUCTED` with a probe answer of 1 ends in `READY`; with 0 it ends in `ABANDONED` after the probe alone; elsewhere it is refused. -/
def Obligations.ConstructRunsTheInitSequence : Prop :=
  ∀ (addr : Addr7) (s : State),
    (s.phase = .unconstructed → s.answers.probe = true → TransportCompletes s →
      exec (.construct addr) s = .next { s with
        addr := addr, phase := .ready, rdy := true, cf := { s.cf with d := true }, bl := true, busy := false
        answers := Answers.none, trace := s.trace ++ initEvents s.cfg addr s.cf s.bl }) ∧
    (s.phase = .unconstructed → s.answers.probe = false →
      exec (.construct addr) s = .next { s with
        addr := addr, phase := .abandoned, busy := false, answers := Answers.none, trace := s.trace ++ [.probe addr false] }) ∧
    (s.phase ≠ .unconstructed → exec (.construct addr) s = .refused .alreadyConstructed)

/-- R206 at each of the 32 writes of CONSTRUCT: stuck in the first write that the transport never completes, with `busy_o` = 1, `RDY` and `ADDR` written
and the events up to that write emitted (the model's form of a stuck block: log entry 4). -/
def Obligations.ConstructHangsInTheUnansweredWrite : Prop :=
  ∀ (addr : Addr7) (s : State) (pre post : List WriteAnswer), s.phase = .unconstructed → s.answers.probe = true →
    s.answers.writes = pre ++ .never :: post → .never ∉ pre → pre.length < 32 →
    ∃ t es a b rest, exec (.construct addr) s = .next t ∧ t.busy = true ∧ t.rdy = true ∧ t.addr = addr ∧
      initEvents s.cfg addr s.cf s.bl = es ++ .write a b :: rest ∧ es.countP Event.isWrite = pre.length ∧
      t.trace = s.trace ++ es ++ [.write a b]

/-- The trace of R135 from the flags that reset leaves, row by row, and its counts (R238). -/
def Obligations.InitTraceHasTheTabulatedRows : Prop :=
  ∀ (cfg : Params) (addr : Addr7),
    let n (v : Nibble) (bl : Bool) : List Event :=
      [.write addr (nibbleByte cfg.pins v false bl ||| maskEn cfg.pins), .wait cfg.tWrUs,
       .write addr (nibbleByte cfg.pins v false bl), .wait cfg.tWrUs]
    let es := initEvents cfg addr { d := false, c := false, b := false } false
    es = [.probe addr true] ++
        (n 0x3 false ++ [.wait 150000]) ++ (n 0x3 false ++ [.wait 4100]) ++ (n 0x3 false ++ [.wait 100]) ++ n 0x2 false ++
        (n 0x2 false ++ n 0x8 false) ++ (n 0x0 false ++ n 0x8 false) ++ (n 0x0 false ++ n 0x1 false ++ [.wait 2000]) ++
        (n 0x0 false ++ n 0x6 false) ++ (n 0x0 true ++ n 0x8 true) ++ (n 0x0 true ++ n 0xC true) ∧
      es.length = 69 ∧ es.countP Event.isProbe = 1 ∧ es.countP Event.isWrite = 32 ∧ es.countP Event.isWait = 36 ∧
      waitSum es = 32 * cfg.tWrUs + 156200

/-! ## Display requests (42_display_ops.md) -/

/-- R151: CLEAR in `READY` or `ABANDONED` sends the command 0x01 and then `WAIT(2000)`, with `RDY` = 0 nothing at all, and writes no state of the block;
elsewhere it is refused. -/
def Obligations.ClearSendsClearAndSettles : Prop :=
  ∀ s : State,
    (s.phase = .ready ∨ s.phase = .abandoned → TransportCompletes s →
      exec .clear s = .next { s with
        busy := false, answers := Answers.none
        trace := s.trace ++ (s.byteEvents 0x01 false ++ if s.rdy then [.wait 2000] else []) }) ∧
    (¬(s.phase = .ready ∨ s.phase = .abandoned) → exec .clear s = .refused .notConstructed)

/-- R153, with the clamping of R152 written out: SETCURSOR in `READY` or `ABANDONED` sends `0x80 | (min(x, WIDTH-1) + min(y, 1) * 0x40)`; no cursor position is
stored; elsewhere it is refused. -/
def Obligations.SetCursorSendsTheClampedAddress : Prop :=
  ∀ (x y : Byte) (s : State),
    (s.phase = .ready ∨ s.phase = .abandoned → TransportCompletes s →
      exec (.setCursor x y) s = .next { s with
        busy := false, answers := Answers.none
        trace := s.trace ++
          s.byteEvents (0x80 ||| BitVec.ofNat 8 (min x.toNat (s.cfg.width - 1) + min y.toNat 1 * 0x40)) false }) ∧
    (¬(s.phase = .ready ∨ s.phase = .abandoned) → exec (.setCursor x y) s = .refused .notConstructed)

/-- R155 and R156: `BL` is set or cleared, then the carrier command of the unchanged flags goes out with the new backlight bit. -/
def Obligations.BacklightRequestsSendTheCarrier : Prop :=
  ∀ s : State,
    (s.phase = .ready ∨ s.phase = .abandoned → TransportCompletes s →
      exec .backlightOn s = .next { s with
        bl := true, busy := false, answers := Answers.none
        trace := s.trace ++ if s.rdy then byteEvents s.cfg s.addr true (dispCtlByte s.cf) false else [] } ∧
      exec .backlightOff s = .next { s with
        bl := false, busy := false, answers := Answers.none
        trace := s.trace ++ if s.rdy then byteEvents s.cfg s.addr false (dispCtlByte s.cf) false else [] }) ∧
    (¬(s.phase = .ready ∨ s.phase = .abandoned) →
      exec .backlightOn s = .refused .notConstructed ∧ exec .backlightOff s = .refused .notConstructed)

/-- R157 and R158: `CF.D` is set or cleared, then the whole combined byte of the new flags goes out (R26). -/
def Obligations.DisplayRequestsSendTheCombinedFlags : Prop :=
  ∀ s : State,
    (s.phase = .ready ∨ s.phase = .abandoned → TransportCompletes s →
      exec .displayOn s = .next { s with
        cf := { s.cf with d := true }, busy := false, answers := Answers.none
        trace := s.trace ++ s.byteEvents (dispCtlByte { s.cf with d := true }) false } ∧
      exec .displayOff s = .next { s with
        cf := { s.cf with d := false }, busy := false, answers := Answers.none
        trace := s.trace ++ s.byteEvents (dispCtlByte { s.cf with d := false }) false }) ∧
    (¬(s.phase = .ready ∨ s.phase = .abandoned) →
      exec .displayOn s = .refused .notConstructed ∧ exec .displayOff s = .refused .notConstructed)

/-- R165: PRINTCHAR in `READY` or `ABANDONED` sends its byte unchanged, as data, and writes no state of the block; elsewhere it is refused. -/
def Obligations.PrintCharSendsItsByteAsData : Prop :=
  ∀ (c : Byte) (s : State),
    (s.phase = .ready ∨ s.phase = .abandoned → TransportCompletes s →
      exec (.printChar c) s = .next { s with
        busy := false, answers := Answers.none, trace := s.trace ++ s.byteEvents c true }) ∧
    (¬(s.phase = .ready ∨ s.phase = .abandoned) → exec (.printChar c) s = .refused .notConstructed)

/-- R152's property: coordinates past the edge behave as the last column and the last row, and are never wrapped. -/
def Obligations.SetCursorActsAsItsClampedCell : Prop :=
  ∀ (x y : Byte) (s : State),
    exec (.setCursor x y) s =
      exec (.setCursor (BitVec.ofNat 8 (min x.toNat (s.cfg.width - 1))) (BitVec.ofNat 8 (min y.toNat 1))) s

/-- The address arithmetic of R172 does not overflow: the sum fits 7 bits, is at most 0x67, and the OR with 0x80 is exact. -/
def Obligations.DdramAddressNeverOverflows : Prop :=
  ∀ (cfg : Params) (x y : Byte),
    (ddramAddr cfg.width x y).toNat = min x.toNat (cfg.width - 1) + min y.toNat 1 * 0x40 ∧
      (ddramAddr cfg.width x y).toNat ≤ 0x67 ∧
      (cmdDdram (ddramAddr cfg.width x y)).toNat = 0x80 + (ddramAddr cfg.width x y).toNat

/-- The property of R159: the second DISPLAYON leaves the flags as the first left them, and each call sends the same eight events; so for DISPLAYOFF. -/
def Obligations.DisplayRequestsAreIdempotentOnFlags : Prop :=
  ∀ (s : State) (v : Bool), s.phase = .ready ∨ s.phase = .abandoned → s.rdy = true → TransportCompletes s →
    let i := if v then Instr.displayOn else Instr.displayOff
    ∃ t u es, exec i s = .next t ∧ exec i t = .next u ∧ t.cf.d = v ∧ u.cf = t.cf ∧
      es.length = 8 ∧ t.trace = s.trace ++ es ∧ u.trace = s.trace ++ es ++ es

/-- The counts of R107 and R238 for the display requests with `RDY` = 1: four writes, a `WAIT(T_WR_US)` after each, and CLEAR's `WAIT(2000)`. -/
def Obligations.DisplayRequestEventCounts : Prop :=
  ∀ (i : Instr) (s : State), isConstruct i = false → s.phase = .ready ∨ s.phase = .abandoned → s.rdy = true → TransportCompletes s →
    ∃ t es, exec i s = .next t ∧ t.trace = s.trace ++ es ∧ es.countP Event.isProbe = 0 ∧ es.countP Event.isWrite = 4 ∧
      es.countP Event.isWait = (if i = .clear then 5 else 4) ∧
      waitSum es = 4 * s.cfg.tWrUs + (if i = .clear then 2000 else 0)

/-! ## Frames -/

/-- CLEAR, SETCURSOR and PRINTCHAR write no state of the block, completed or stuck; R150's `PHASE`, `RDY` and `ADDR` among it. -/
def Obligations.TransmittingRequestsKeepTheState : Prop :=
  ∀ (i : Instr) (s t : State), (i = .clear ∨ (∃ x y, i = .setCursor x y) ∨ ∃ c, i = .printChar c) → exec i s = .next t →
    t.phase = s.phase ∧ t.rdy = s.rdy ∧ t.addr = s.addr ∧ t.cf = s.cf ∧ t.bl = s.bl ∧ t.cfg = s.cfg ∧ t.inputs = s.inputs ∧
      ∃ es, t.trace = s.trace ++ es

/-- BACKLIGHTON and BACKLIGHTOFF write `BL` and nothing else of the block. -/
def Obligations.BacklightRequestsKeepTheRest : Prop :=
  ∀ (v : Bool) (s t : State), exec (if v then .backlightOn else .backlightOff) s = .next t →
    t.bl = v ∧ t.phase = s.phase ∧ t.rdy = s.rdy ∧ t.addr = s.addr ∧ t.cf = s.cf ∧ t.cfg = s.cfg ∧ t.inputs = s.inputs ∧
      ∃ es, t.trace = s.trace ++ es

/-- DISPLAYON and DISPLAYOFF write `CF.D` and nothing else of the block; `CF.C` and `CF.B` are kept. -/
def Obligations.DisplayRequestsKeepTheRest : Prop :=
  ∀ (v : Bool) (s t : State), exec (if v then .displayOn else .displayOff) s = .next t →
    t.cf = { s.cf with d := v } ∧ t.phase = s.phase ∧ t.rdy = s.rdy ∧ t.addr = s.addr ∧ t.bl = s.bl ∧ t.cfg = s.cfg ∧
      t.inputs = s.inputs ∧ ∃ es, t.trace = s.trace ++ es

/-- CONSTRUCT writes `ADDR`, `PHASE`, `RDY`, `CF.D` and `BL` (R120) and nothing else, completed or stuck. -/
def Obligations.ConstructKeepsTheRest : Prop :=
  ∀ (addr : Addr7) (s t : State), exec (.construct addr) s = .next t →
    t.addr = addr ∧ t.cf.c = s.cf.c ∧ t.cf.b = s.cf.b ∧ t.cfg = s.cfg ∧ t.inputs = s.inputs ∧
      ∃ es, t.trace = s.trace ++ .probe addr s.answers.probe :: es

/-- No step writes the parameters: they are fixed for the block's lifetime (R28, R34). -/
def Obligations.StepKeepsTheParameters : Prop :=
  ∀ s t : State, step s = .next t → t.cfg = s.cfg

/-! ## Refusals and stops (60_exceptions.md) -/

/-- A word that decodes to a legal request is performed, an illegal request is refused for its phase, a reserved word for its encoding (the check of R211).
For every transport: where a `WRITE` is never completed (R206), the next state of a legal request is the model's own form of a stuck block, log entry 4. -/
def Obligations.RequestsAreRefusedExactlyWhenIllegal : Prop :=
  (∀ (w : ReqWord) (e : Reserved) (s : State), decode w = .error e → runWord w s = .refused .reservedRequest) ∧
    (∀ (w : ReqWord) (i : Instr) (s : State), decode w = .ok i → runWord w s = exec i s) ∧
    ∀ (i : Instr) (s : State),
      (legal i s.phase = true → ∃ t, exec i s = .next t) ∧ (legal i s.phase = false → exec i s = .refused (refusalOf i))

/-- R212: a reserved word is refused as `RESERVED_REQUEST` in every phase. -/
def Obligations.ReservedWordsAreRefusedInEveryPhase : Prop :=
  ∀ (s : State) (w : ReqWord) (a : Answers) (rest : List Input) (e : Reserved),
    s.busy = false → s.inputs = .request w a :: rest → decode w = .error e → step s = .refused .reservedRequest

/-- A block stuck in a request has no step (R206), takes no request (R213) and has no step for reset (R233). The names of the stops are the model's:
log entries 4 and 13. -/
def Obligations.BusyBlockHasNoNextState : Prop :=
  ∀ s : State, s.busy = true →
    (∀ t, step s ≠ .next t) ∧ (s.inputs = [] → step s = .fault .transportHang) ∧
      (∀ w a rest, s.inputs = .request w a :: rest → step s = .refused .requestWhileBusy) ∧
      ∀ w rest, s.inputs = .reset w :: rest → step s = .fault .resetWhileBusy

/-- R206 at each of the four writes of a display request with `RDY` = 1: stuck in the first write that the transport never completes, with `busy_o` = 1,
its state written and the events up to that write emitted (the model's form of a stuck block: log entry 4). -/
def Obligations.DisplayRequestsHangInTheUnansweredWrite : Prop :=
  ∀ (i : Instr) (s : State) (pre post : List WriteAnswer), isConstruct i = false → s.phase = .ready ∨ s.phase = .abandoned → s.rdy = true →
    s.answers.writes = pre ++ .never :: post → .never ∉ pre → pre.length < 4 →
    exec i s = .next { requestUpdate i s with
      busy := true, answers := { s.answers with writes := post }
      trace := s.trace ++ (requestEvents i (requestUpdate i s)).take (2 * pre.length + 1) }

/-- A request that a transport completes is over when it answers (R171); one that is not over is stuck in its last event, a `WRITE` never completed
(log entry 4). -/
def Obligations.RequestsStayBusyOnlyInAnUnansweredWrite : Prop :=
  ∀ (i : Instr) (s t : State), exec i s = .next t →
    (TransportCompletes s → t.busy = false) ∧
      (t.busy = true → .never ∈ s.answers.writes ∧ ∃ es a b, t.trace = s.trace ++ es ++ [.write a b])

/-- R203: in degraded mode a legal request emits nothing and still makes its updates, whatever the transport would answer. -/
def Obligations.DegradedRequestsEmitNothing : Prop :=
  ∀ (i : Instr) (s : State), isConstruct i = false → s.phase = .abandoned → s.rdy = false →
    exec i s = .next { requestUpdate i s with busy := false, answers := Answers.none }

/-- R204: degraded mode lasts until reset, and no event is emitted in it. -/
def Obligations.DegradedModeLastsUntilReset : Prop :=
  ∀ (n : Nat) (s t : State), s.phase = .abandoned → s.rdy = false → (∀ m ∈ s.inputs, m.isReset = false) →
    core.run n s = .next t → t.phase = .abandoned ∧ t.rdy = false ∧ t.trace = s.trace

/-- R205: two machines whose transports differ in the write statuses alone make the same steps. -/
def Obligations.WriteStatusesAreIgnored : Prop :=
  ∀ s : State, step s.forget = forgetOutcome (step s)

/-! ## State elements over every step (10_state.md) -/

/-- R22: `RDY` is 0 at reset, rises only by an accepted CONSTRUCT whose probe answered 1, falls only by reset, and gates every `WRITE`. -/
def Obligations.ReadyRisesOnlyByAnAnsweredProbe : Prop :=
  State.reset.rdy = false ∧
    ∀ s t : State, step s = .next t →
      (s.rdy = false → t.rdy = true → ∃ w a rest addr, s.inputs = .request w a :: rest ∧ decode w = .ok (.construct addr) ∧
        s.phase = .unconstructed ∧ a.probe = true) ∧
      (s.rdy = true → t.rdy = false → ∃ w rest, s.inputs = .reset w :: rest) ∧
      ∃ es, t.trace = s.trace ++ es ∧ (t.rdy = false → es.countP Event.isWrite = 0)

/-- Only CONSTRUCT moves `PHASE` out of `UNCONSTRUCTED`, no other request changes it, and between resets it only goes forward. -/
def Obligations.PhaseOnlyMovesForward : Prop :=
  ∀ s t : State, step s = .next t → (∀ w rest, s.inputs ≠ .reset w :: rest) →
    phaseRank s.phase ≤ phaseRank t.phase ∧
      (t.phase ≠ s.phase → s.phase = .unconstructed ∧ ∃ w a rest addr, s.inputs = .request w a :: rest ∧ decode w = .ok (.construct addr))

/-- R138: without a reset the probe is emitted at most once, and never after construction. -/
def Obligations.ProbeAtMostOncePerReset : Prop :=
  ∀ (n : Nat) (s t : State), (∀ m ∈ s.inputs, m.isReset = false) → core.run n s = .next t →
    ∃ es, t.trace = s.trace ++ es ∧ es.countP Event.isProbe ≤ 1 ∧ (s.phase ≠ .unconstructed → es.countP Event.isProbe = 0)

/-- Every `WRITE` that a request emits goes to `ADDR` (R23) and leaves the free expander bit clear (R81). -/
def Obligations.WritesGoToAddrWithTheFreeBitClear : Prop :=
  ∀ (i : Instr) (s t : State), exec i s = .next t →
    ∃ es, t.trace = s.trace ++ es ∧ ∀ a b, .write a b ∈ es → a = t.addr ∧ b.getLsbD (pinFree s.cfg.pins) = false

/-- Every `WRITE` of a display request carries the current backlight bit (R27, R102). -/
def Obligations.BacklightRidesOnEveryWrite : Prop :=
  ∀ (i : Instr) (s t : State), isConstruct i = false → exec i s = .next t →
    ∃ es, t.trace = s.trace ++ es ∧ ∀ a b, .write a b ∈ es → b.getLsbD s.cfg.pins.bl = t.bl

/-- The property of R160 over runs: once the backlight is off in a constructed block, every later `WRITE` has `PIN_BL` clear until BACKLIGHTON or reset. -/
def Obligations.BacklightStaysOffUntilTurnedOn : Prop :=
  ∀ (n : Nat) (s t : State), s.bl = false → s.phase ≠ .unconstructed → (∀ m ∈ s.inputs, m.isReset = false) →
    (∀ w a, .request w a ∈ s.inputs → decode w ≠ .ok .backlightOn) → core.run n s = .next t →
    t.bl = false ∧ ∃ es, t.trace = s.trace ++ es ∧ ∀ a b, .write a b ∈ es → b.getLsbD s.cfg.pins.bl = false

/-! ## Steps, reset and boot (60_exceptions.md R211, 70_reset_and_hazards.md) -/

/-- A step runs the decoded request: not busy, the host's word is taken off its list, the transport's answers are loaded, and `exec` runs. The list of
moves is the model's own form: log entry 2. -/
def Obligations.StepRunsTheDecodedRequest : Prop :=
  ∀ (s : State) (w : ReqWord) (a : Answers) (rest : List Input) (i : Instr),
    s.busy = false → s.inputs = .request w a :: rest → decode w = .ok i →
    step s = exec i { s with inputs := rest, answers := a }

/-- Reset while not busy, alone or with a word presented at the same time: every element at its value, no event (R230). That a word presented with it is neither
run nor kept rests on the priority of reset (R213) and on the model's form of that move, log entry 10. `ADDR` is not named: the spec leaves it open. -/
def Obligations.ResetPutsEveryElementAtItsValue : Prop :=
  ∀ (s : State) (alongside : Option ReqWord) (rest : List Input), s.busy = false → s.inputs = .reset alongside :: rest →
    ∃ t, step s = .next t ∧ t.phase = .unconstructed ∧ t.rdy = false ∧ t.cf = { d := false, c := false, b := false } ∧
      t.bl = false ∧ t.busy = false ∧ t.trace = s.trace ∧ t.cfg = s.cfg ∧ t.inputs = rest

/-- R32: the state right after reset. `ADDR` is not named: the spec leaves it open. -/
def Obligations.ResetStateHasTheTabulatedValues : Prop :=
  State.reset.phase = .unconstructed ∧ State.reset.rdy = false ∧ State.reset.cf = { d := false, c := false, b := false } ∧
    State.reset.bl = false ∧ State.reset.busy = false ∧ State.reset.readyO = false ∧ State.reset.busyO = false ∧
    State.reset.cfg.width = 16

/-- The block waits for a request and runs nothing by itself (a step that leaves the state as it is: log entry 9); in `UNCONSTRUCTED` the only legal
request is CONSTRUCT. -/
def Obligations.BlockWaitsForTheHost : Prop :=
  (∀ s : State, s.busy = false → s.inputs = [] → step s = .next s) ∧ ∀ i : Instr, legal i .unconstructed = isConstruct i

/-- A well-formed configuration (pins pairwise distinct, width in 1..40) is taken with the values written down; an ill-formed one is refused, for its pins or
for its width where that alone is wrong; every machine has a well-formed one. -/
def Obligations.IllFormedConfigurationsAreRefused : Prop :=
  (∀ r : RawParams,
    (r.pins.Distinct ∧ WidthInRange r.width → ∃ p, r.check = .ok p ∧ p.pins = r.pins ∧ p.width = r.width ∧ p.tWrUs = r.tWrUs) ∧
      (¬(r.pins.Distinct ∧ WidthInRange r.width) → ∃ e, r.check = .error e) ∧
      (¬r.pins.Distinct → WidthInRange r.width → r.check = .error .pinsOverlap) ∧
      (r.pins.Distinct → ¬WidthInRange r.width → r.check = .error .widthOutOfRange)) ∧
    ∀ s : State, s.cfg.pins.Distinct ∧ WidthInRange s.cfg.width

/-! ## Invariants -/

/-- Every step keeps the invariant of the block's state: `RDY` is 1 exactly in the phases after an answered probe, between requests `PHASE` is one of the
three visible values, a stuck block has `RDY` = 1, `CF.C` and `CF.B` are 0, and before `INIT_BL_ON` `BL` and `CF.D` are 0. -/
def Obligations.StepKeepsTheInvariant : Prop :=
  ∀ s t : State, Inv s → step s = .next t → Inv t

/-- Every step keeps the write spacing: each `WRITE` is followed at once by `WAIT(T_WR_US)` (R105), except the last `WRITE` of a block that is stuck in it (R206):
that one counts as emitted and has no `WAIT` after it, which is the model's form of a stuck block, log entry 4. -/
def Obligations.StepKeepsTheWriteSpacing : Prop :=
  ∀ s t : State, TracePaced s → step s = .next t → TracePaced t

/-- Both invariants hold right after reset. -/
def Obligations.InvariantsHoldAtReset : Prop :=
  Inv State.reset ∧ TracePaced State.reset

/-! ## What the LCD receives -/

/-- Whatever the pin assignment, an observer of the expander's pins, whose levels the `WRITE`s set (R51), and who latches at every fall of enable (R60, R61),
receives exactly the nibbles of the request: the bytes of the display requests high nibble first with their register select, and CONSTRUCT's four lone
nibbles and six command bytes, all as commands. The observer is the model's own, computed from the events: log entry 19. -/
def Obligations.LcdLatchesTheNibblesOfTheRequest : Prop :=
  ∀ (i : Instr) (s : State), legal i s.phase = true → TransportCompletes s →
    (isConstruct i = true → s.answers.probe = true) → (isConstruct i = false → s.rdy = true) →
    ∃ t es, exec i s = .next t ∧ t.trace = s.trace ++ es ∧ latches s.cfg.pins false es = lcdNibbles i s

/-- After a request that wrote, the expander's outputs, which hold until the next `WRITE` (R51), rest with enable low (R103) and the backlight as `BL` says. The
observer of the outputs is the model's own, computed from the events: log entry 19. -/
def Obligations.ExpanderRestsWithEnableLow : Prop :=
  ∀ (i : Instr) (s : State), legal i s.phase = true → TransportCompletes s →
    (isConstruct i = true → s.answers.probe = true) → (isConstruct i = false → s.rdy = true) →
    ∃ t es b, exec i s = .next t ∧ t.trace = s.trace ++ es ∧ expanderPort es = some b ∧
      b.getLsbD s.cfg.pins.en = false ∧ b.getLsbD s.cfg.pins.bl = t.bl

/-- PRINT of a text is its PRINTCHAR requests one after another; nothing of the block's state changes, and the events are those of the characters in text order. -/
def Obligations.PrintIsItsCharactersInOrder : Prop :=
  ∀ (text : List Byte) (s : State) (a : Answers) (rest : List Input), s.phase = .ready ∨ s.phase = .abandoned → s.busy = false →
    .never ∉ a.writes → s.inputs = presentations (printWords text) a ++ rest →
    ∃ t, core.run text.length s = .next t ∧ t.phase = s.phase ∧ t.rdy = s.rdy ∧ t.addr = s.addr ∧ t.cf = s.cf ∧ t.bl = s.bl ∧
      t.busy = false ∧ t.cfg = s.cfg ∧ t.inputs = rest ∧ t.trace = s.trace ++ text.flatMap fun c => s.byteEvents c true
end

