-- ==== Sys2Proof/Laws/Decode.lean ====
section
/-! SUPPORT. The three fields of a request word (spec/30_encoding.md R71), said once: a word is its fields and its fields are what it was built from. -/

namespace Sys2Proof

theorem getLsbD_requestWord (op : BitVec 4) (a b : Byte) (k : Nat) :
    (requestWord op a b).getLsbD k =
      if k < 8 then b.getLsbD k else if k < 16 then a.getLsbD (k - 8) else op.getLsbD (k - 16) := by
  show ((op ++ a ++ b : BitVec (4 + 8 + 8))).getLsbD k = _
  simp only [BitVec.getLsbD_append]
  split
  · rfl
  · split <;> split <;> first | rfl | omega

@[simp] theorem opField_requestWord (op : BitVec 4) (a b : Byte) : opField (requestWord op a b) = op := by
  apply BitVec.eq_of_getLsbD_eq
  intro k hk
  simp only [opField, BitVec.getLsbD_extractLsb', getLsbD_requestWord]
  rw [if_neg (by omega), if_neg (by omega), Nat.add_sub_cancel_left]
  simp [hk]

@[simp] theorem aField_requestWord (op : BitVec 4) (a b : Byte) : aField (requestWord op a b) = a := by
  apply BitVec.eq_of_getLsbD_eq
  intro k hk
  simp only [aField, BitVec.getLsbD_extractLsb', getLsbD_requestWord]
  rw [if_neg (by omega), if_pos (by omega), Nat.add_sub_cancel_left]
  simp [hk]

@[simp] theorem bField_requestWord (op : BitVec 4) (a b : Byte) : bField (requestWord op a b) = b := by
  apply BitVec.eq_of_getLsbD_eq
  intro k hk
  simp only [bField, BitVec.getLsbD_extractLsb', getLsbD_requestWord]
  rw [Nat.zero_add, if_pos hk]
  simp [hk]

theorem requestWord_fields (w : ReqWord) : requestWord (opField w) (aField w) (bField w) = w := by
  apply BitVec.eq_of_getLsbD_eq
  intro k hk
  rw [getLsbD_requestWord]
  simp only [opField, aField, bField, BitVec.getLsbD_extractLsb']
  split
  · simp [*]
  · split
    · rw [show 8 + (k - 8) = k by omega]; simp; omega
    · rw [show 16 + (k - 16) = k by omega]; simp; omega

end Sys2Proof
end

