-- ==== Sys2Proof/Laws/Operands.lean ====
section
/-! SUPPORT. The bits of the bytes that the block builds (spec/30_encoding.md R79 to R81): each byte bit by bit, under any pin assignment. -/

namespace Sys2Proof.Machine

@[simp] theorem getLsbD_bit (p : Fin 8) (k : Nat) : (bit p).getLsbD k = decide (k = p.val) := by
  unfold bit
  rw [BitVec.getLsbD_ofNat, Nat.testBit_two_pow]
  have := p.isLt
  by_cases h : k = p.val
  · simp [h]
  · simp [h, Ne.symm h]

@[simp] theorem getLsbD_maskIf (c : Bool) (m : Byte) (k : Nat) : (maskIf c m).getLsbD k = (c && m.getLsbD k) := by
  cases c <;> simp [maskIf]

theorem getLsbD_pinMap (p : PinAssignment) (v : Nibble) (k : Nat) :
    (pinMap p v).getLsbD k =
      (v.getLsbD 0 && decide (k = p.d4.val) || v.getLsbD 1 && decide (k = p.d5.val) ||
        v.getLsbD 2 && decide (k = p.d6.val) || v.getLsbD 3 && decide (k = p.d7.val)) := by
  simp [pinMap, BitVec.getLsbD_or]

theorem getLsbD_nibbleByte (p : PinAssignment) (v : Nibble) (isData bl : Bool) (k : Nat) :
    (nibbleByte p v isData bl).getLsbD k =
      ((pinMap p v).getLsbD k || isData && decide (k = p.rs.val) || bl && decide (k = p.bl.val)) := by
  simp [nibbleByte, maskRs, maskBl, BitVec.getLsbD_or]

/-- The distinctness of R6, pair by pair, on the bit numbers. -/
theorem distinct_vals (p : PinAssignment) (h : p.Distinct) :
    [p.d4.val, p.d5.val, p.d6.val, p.d7.val, p.rs.val, p.en.val, p.bl.val].Nodup :=
  (List.nodup_map_iff Fin.val_injective).2 h

/-- Exactly one bit is left over (R6), and `pinFree` is that bit. -/
theorem pinFree_iff (p : PinAssignment) (h : p.Distinct) (k : Fin 8) : k ∉ p.assigned ↔ k = pinFree p := by
  have hc : ((List.finRange 8).filter fun k => decide (k ∉ p.assigned)).length = 1 := by
    have h1 : ((List.finRange 8).filter fun k => decide (k ∈ p.assigned)).Perm p.assigned := by
      rw [List.perm_ext_iff_of_nodup ((List.nodup_finRange 8).filter _) h]
      simp
    have h2 := List.length_eq_length_filter_add (l := List.finRange 8) fun k => decide (k ∈ p.assigned)
    have h3 := h1.length_eq
    simp only [List.length_finRange, PinAssignment.assigned, List.length_cons, List.length_nil] at h2 h3
    have h4 : ((List.finRange 8).filter fun k => !decide (k ∈ p.assigned)) =
        (List.finRange 8).filter fun k => decide (k ∉ p.assigned) := by simp
    rw [← h4]
    simp only [PinAssignment.assigned] at h2 h3 ⊢
    omega
  obtain ⟨x, hx⟩ := List.length_eq_one_iff.1 hc
  have hf : pinFree p = x := by rw [pinFree, hx]; rfl
  have hm : k ∈ (List.finRange 8).filter (fun k => decide (k ∉ p.assigned)) ↔ k = x := by rw [hx]; simp
  rw [hf, ← hm]
  simp

/-- No two signals share a bit number (R6), pair by pair, in the form in which the bits of a byte mention it. -/
theorem pins_ne (p : PinAssignment) (h : p.Distinct) :
    decide (p.d4.val = p.d5.val) = false ∧
    decide (p.d4.val = p.d6.val) = false ∧
    decide (p.d4.val = p.d7.val) = false ∧
    decide (p.d4.val = p.rs.val) = false ∧
    decide (p.d4.val = p.en.val) = false ∧
    decide (p.d4.val = p.bl.val) = false ∧
    decide (p.d5.val = p.d4.val) = false ∧
    decide (p.d5.val = p.d6.val) = false ∧
    decide (p.d5.val = p.d7.val) = false ∧
    decide (p.d5.val = p.rs.val) = false ∧
    decide (p.d5.val = p.en.val) = false ∧
    decide (p.d5.val = p.bl.val) = false ∧
    decide (p.d6.val = p.d4.val) = false ∧
    decide (p.d6.val = p.d5.val) = false ∧
    decide (p.d6.val = p.d7.val) = false ∧
    decide (p.d6.val = p.rs.val) = false ∧
    decide (p.d6.val = p.en.val) = false ∧
    decide (p.d6.val = p.bl.val) = false ∧
    decide (p.d7.val = p.d4.val) = false ∧
    decide (p.d7.val = p.d5.val) = false ∧
    decide (p.d7.val = p.d6.val) = false ∧
    decide (p.d7.val = p.rs.val) = false ∧
    decide (p.d7.val = p.en.val) = false ∧
    decide (p.d7.val = p.bl.val) = false ∧
    decide (p.rs.val = p.d4.val) = false ∧
    decide (p.rs.val = p.d5.val) = false ∧
    decide (p.rs.val = p.d6.val) = false ∧
    decide (p.rs.val = p.d7.val) = false ∧
    decide (p.rs.val = p.en.val) = false ∧
    decide (p.rs.val = p.bl.val) = false ∧
    decide (p.en.val = p.d4.val) = false ∧
    decide (p.en.val = p.d5.val) = false ∧
    decide (p.en.val = p.d6.val) = false ∧
    decide (p.en.val = p.d7.val) = false ∧
    decide (p.en.val = p.rs.val) = false ∧
    decide (p.en.val = p.bl.val) = false ∧
    decide (p.bl.val = p.d4.val) = false ∧
    decide (p.bl.val = p.d5.val) = false ∧
    decide (p.bl.val = p.d6.val) = false ∧
    decide (p.bl.val = p.d7.val) = false ∧
    decide (p.bl.val = p.rs.val) = false ∧
    decide (p.bl.val = p.en.val) = false := by
  have := distinct_vals p h
  simp only [List.nodup_cons, List.mem_cons, not_or, List.not_mem_nil] at this
  obtain ⟨⟨a1, a2, a3, a4, a5, a6, -⟩, ⟨b1, b2, b3, b4, b5, -⟩, ⟨c1, c2, c3, c4, -⟩, ⟨d1, d2, d3, -⟩, ⟨e1, e2, -⟩, ⟨f1, -⟩, -⟩ := this
  simp only [decide_eq_false_iff_not]
  refine ⟨?_, ?_, ?_, ?_, ?_, ?_, ?_, ?_, ?_, ?_, ?_, ?_, ?_, ?_, ?_, ?_, ?_, ?_, ?_, ?_, ?_, ?_, ?_, ?_, ?_, ?_, ?_, ?_, ?_, ?_, ?_, ?_, ?_, ?_, ?_, ?_, ?_, ?_, ?_, ?_, ?_, ?_⟩ <;> first | assumption | (apply Ne.symm; assumption)

/-- `PIN_FREE` is no signal's bit (R6). -/
theorem pinFree_ne (p : PinAssignment) (h : p.Distinct) : decide ((pinFree p).val = p.d4.val) = false ∧ decide ((pinFree p).val = p.d5.val) = false ∧ decide ((pinFree p).val = p.d6.val) = false ∧ decide ((pinFree p).val = p.d7.val) = false ∧ decide ((pinFree p).val = p.rs.val) = false ∧ decide ((pinFree p).val = p.en.val) = false ∧ decide ((pinFree p).val = p.bl.val) = false := by
  have := (pinFree_iff p h (pinFree p)).2 rfl
  simpa [PinAssignment.assigned, Fin.ext_iff] using this

end Sys2Proof.Machine
end

