-- ==== Sys2Proof/Laws/Events.lean ====
section
/-! SUPPORT. What one enable pulse and one byte are, event by event: their counts (spec/70_reset_and_hazards.md R238), their spacing (R105), their writes
(R104), and what the LCD latches from them (R60). -/

namespace Sys2Proof.Machine

/-! ## One pulse -/

@[simp] theorem pulseEvents_length (cfg : Params) (a : Addr7) (b : Byte) : (pulseEvents cfg a b).length = 4 := rfl

@[simp] theorem pulseEvents_probes (cfg : Params) (a : Addr7) (b : Byte) : (pulseEvents cfg a b).countP Event.isProbe = 0 := rfl

@[simp] theorem pulseEvents_writes (cfg : Params) (a : Addr7) (b : Byte) : (pulseEvents cfg a b).countP Event.isWrite = 2 := rfl

@[simp] theorem pulseEvents_waits (cfg : Params) (a : Addr7) (b : Byte) : (pulseEvents cfg a b).countP Event.isWait = 2 := rfl

@[simp] theorem waitSum_append (es fs : List Event) : waitSum (es ++ fs) = waitSum es + waitSum fs := by
  simp [waitSum]

@[simp] theorem pulseEvents_waitSum (cfg : Params) (a : Addr7) (b : Byte) : waitSum (pulseEvents cfg a b) = 2 * cfg.tWrUs := by
  simp only [waitSum, pulseEvents, List.map_cons, List.map_nil, Event.waitBound, List.sum_cons, List.sum_nil]
  omega

/-- The two writes of a pulse (R104). -/
theorem mem_pulseEvents_write (cfg : Params) (a a' : Addr7) (b b' : Byte) :
    Event.write a' b' ∈ pulseEvents cfg a b ↔ a' = a ∧ (b' = b ||| maskEn cfg.pins ∨ b' = b) := by
  simp only [pulseEvents, List.mem_cons, List.not_mem_nil, Event.write.injEq, reduceCtorEq, or_false, false_or]
  tauto

/-- A pulse keeps the spacing of R105 and leaves what follows as it is. -/
@[simp] theorem paced_pulse_append (cfg : Params) (a : Addr7) (b : Byte) (es : List Event) :
    paced cfg.tWrUs (pulseEvents cfg a b ++ es) = paced cfg.tWrUs es := by
  simp [pulseEvents, paced]

/-- A pulse of a byte with its enable bit clear latches one nibble, the data pins and register select of that byte (R60). -/
theorem latches_pulse_append (cfg : Params) (a : Addr7) (b : Byte) (es : List Event) (h : b.getLsbD cfg.pins.en = false) :
    latches cfg.pins false (pulseEvents cfg a b ++ es) =
      (b.getLsbD cfg.pins.rs, dataPins cfg.pins b) :: latches cfg.pins false es := by
  simp only [pulseEvents, List.cons_append, List.nil_append, latches, BitVec.getLsbD_or, maskEn, getLsbD_bit, h, decide_true,
    Bool.false_or, Bool.false_and, Bool.not_true, Bool.not_false, Bool.true_and, Bool.false_eq_true, if_false, if_true]

theorem expanderPort_append (es fs : List Event) : expanderPort (es ++ fs) = (expanderPort fs).or (expanderPort es) := by
  induction es with
  | nil => simp [expanderPort]
  | cons e es ih => cases e <;> simp [expanderPort, ih]

/-- After a pulse the expander holds the byte with enable clear (R51, R103). -/
@[simp] theorem expanderPort_pulse (cfg : Params) (a : Addr7) (b : Byte) : expanderPort (pulseEvents cfg a b) = some b := rfl

/-! ## One expander byte -/

/-- The enable bit of a nibble's byte is clear (R81). -/
theorem nibbleByte_en (p : PinAssignment) (h : p.Distinct) (v : Nibble) (isData bl : Bool) :
    (nibbleByte p v isData bl).getLsbD p.en = false := by
  simp only [getLsbD_nibbleByte, getLsbD_pinMap, pins_ne p h, Bool.and_false, Bool.or_false]

/-- The register select of a nibble's byte (R79). -/
theorem nibbleByte_rs (p : PinAssignment) (h : p.Distinct) (v : Nibble) (isData bl : Bool) :
    (nibbleByte p v isData bl).getLsbD p.rs = isData := by
  simp only [getLsbD_nibbleByte, getLsbD_pinMap, pins_ne p h, Bool.and_false, Bool.or_false, Bool.false_or, decide_true, Bool.and_true]

/-- The backlight bit of a nibble's byte (R79). -/
theorem nibbleByte_bl (p : PinAssignment) (h : p.Distinct) (v : Nibble) (isData bl : Bool) :
    (nibbleByte p v isData bl).getLsbD p.bl = bl := by
  simp only [getLsbD_nibbleByte, getLsbD_pinMap, pins_ne p h, Bool.and_false, Bool.or_false, Bool.false_or, decide_true, Bool.and_true]

/-- The free bit of a nibble's byte is clear (R81). -/
theorem nibbleByte_free (p : PinAssignment) (h : p.Distinct) (v : Nibble) (isData bl : Bool) :
    (nibbleByte p v isData bl).getLsbD (pinFree p) = false := by
  simp only [getLsbD_nibbleByte, getLsbD_pinMap, pinFree_ne p h, Bool.and_false, Bool.or_false]

/-- The data pins of a nibble's byte show the nibble (R56). -/
theorem dataPins_nibbleByte (p : PinAssignment) (h : p.Distinct) (v : Nibble) (isData bl : Bool) :
    dataPins p (nibbleByte p v isData bl) = v := by
  simp only [dataPins, getLsbD_nibbleByte, getLsbD_pinMap, pins_ne p h, Bool.and_false, Bool.or_false, Bool.false_or, decide_true,
    Bool.and_true]
  revert v
  decide

/-! ## One byte of the LCD -/

@[simp] theorem byteEvents_length (cfg : Params) (a : Addr7) (bl : Bool) (v : Byte) (isData : Bool) :
    (byteEvents cfg a bl v isData).length = 8 := rfl

@[simp] theorem byteEvents_probes (cfg : Params) (a : Addr7) (bl : Bool) (v : Byte) (isData : Bool) :
    (byteEvents cfg a bl v isData).countP Event.isProbe = 0 := by simp [byteEvents]

@[simp] theorem byteEvents_writes (cfg : Params) (a : Addr7) (bl : Bool) (v : Byte) (isData : Bool) :
    (byteEvents cfg a bl v isData).countP Event.isWrite = 4 := by simp [byteEvents]

@[simp] theorem byteEvents_waits (cfg : Params) (a : Addr7) (bl : Bool) (v : Byte) (isData : Bool) :
    (byteEvents cfg a bl v isData).countP Event.isWait = 4 := by simp [byteEvents]

@[simp] theorem byteEvents_waitSum (cfg : Params) (a : Addr7) (bl : Bool) (v : Byte) (isData : Bool) :
    waitSum (byteEvents cfg a bl v isData) = 4 * cfg.tWrUs := by
  simp only [byteEvents, waitSum_append, pulseEvents_waitSum]
  omega

@[simp] theorem paced_byte_append (cfg : Params) (a : Addr7) (bl : Bool) (v : Byte) (isData : Bool) (es : List Event) :
    paced cfg.tWrUs (byteEvents cfg a bl v isData ++ es) = paced cfg.tWrUs es := by
  simp [byteEvents, List.append_assoc]

/-- A byte latches its two nibbles, high first (R55, R106). -/
theorem latches_byte_append (cfg : Params) (a : Addr7) (bl : Bool) (v : Byte) (isData : Bool) (es : List Event) :
    latches cfg.pins false (byteEvents cfg a bl v isData ++ es) = nibblesOf (isData, v) ++ latches cfg.pins false es := by
  have hd := cfg.pinsDistinct
  rw [byteEvents, List.append_assoc, latches_pulse_append _ _ _ _ (nibbleByte_en _ hd _ _ _),
    latches_pulse_append _ _ _ _ (nibbleByte_en _ hd _ _ _)]
  simp only [nibbleByte_rs _ hd, dataPins_nibbleByte _ hd, nibblesOf, List.cons_append, List.nil_append]

end Sys2Proof.Machine
end

