-- ==== Sys2Proof/Laws/State.lean ====
section
/-! SUPPORT. The fields of a state after each update: one lemma per field per update, true by rfl. -/

namespace Sys2Proof.Machine

@[simp] theorem State.withPhase_phase (p : Phase) (s : State) : (s.withPhase p).phase = p := rfl
@[simp] theorem State.withPhase_rdy (p : Phase) (s : State) : (s.withPhase p).rdy = s.rdy := rfl
@[simp] theorem State.withPhase_addr (p : Phase) (s : State) : (s.withPhase p).addr = s.addr := rfl
@[simp] theorem State.withPhase_cf (p : Phase) (s : State) : (s.withPhase p).cf = s.cf := rfl
@[simp] theorem State.withPhase_bl (p : Phase) (s : State) : (s.withPhase p).bl = s.bl := rfl
@[simp] theorem State.withPhase_busy (p : Phase) (s : State) : (s.withPhase p).busy = s.busy := rfl
@[simp] theorem State.withPhase_cfg (p : Phase) (s : State) : (s.withPhase p).cfg = s.cfg := rfl
@[simp] theorem State.withPhase_inputs (p : Phase) (s : State) : (s.withPhase p).inputs = s.inputs := rfl
@[simp] theorem State.withPhase_answers (p : Phase) (s : State) : (s.withPhase p).answers = s.answers := rfl
@[simp] theorem State.withPhase_trace (p : Phase) (s : State) : (s.withPhase p).trace = s.trace := rfl

@[simp] theorem State.withRdy_phase (v : Bool) (s : State) : (s.withRdy v).phase = s.phase := rfl
@[simp] theorem State.withRdy_rdy (v : Bool) (s : State) : (s.withRdy v).rdy = v := rfl
@[simp] theorem State.withRdy_addr (v : Bool) (s : State) : (s.withRdy v).addr = s.addr := rfl
@[simp] theorem State.withRdy_cf (v : Bool) (s : State) : (s.withRdy v).cf = s.cf := rfl
@[simp] theorem State.withRdy_bl (v : Bool) (s : State) : (s.withRdy v).bl = s.bl := rfl
@[simp] theorem State.withRdy_busy (v : Bool) (s : State) : (s.withRdy v).busy = s.busy := rfl
@[simp] theorem State.withRdy_cfg (v : Bool) (s : State) : (s.withRdy v).cfg = s.cfg := rfl
@[simp] theorem State.withRdy_inputs (v : Bool) (s : State) : (s.withRdy v).inputs = s.inputs := rfl
@[simp] theorem State.withRdy_answers (v : Bool) (s : State) : (s.withRdy v).answers = s.answers := rfl
@[simp] theorem State.withRdy_trace (v : Bool) (s : State) : (s.withRdy v).trace = s.trace := rfl

@[simp] theorem State.withAddr_phase (a : Addr7) (s : State) : (s.withAddr a).phase = s.phase := rfl
@[simp] theorem State.withAddr_rdy (a : Addr7) (s : State) : (s.withAddr a).rdy = s.rdy := rfl
@[simp] theorem State.withAddr_addr (a : Addr7) (s : State) : (s.withAddr a).addr = a := rfl
@[simp] theorem State.withAddr_cf (a : Addr7) (s : State) : (s.withAddr a).cf = s.cf := rfl
@[simp] theorem State.withAddr_bl (a : Addr7) (s : State) : (s.withAddr a).bl = s.bl := rfl
@[simp] theorem State.withAddr_busy (a : Addr7) (s : State) : (s.withAddr a).busy = s.busy := rfl
@[simp] theorem State.withAddr_cfg (a : Addr7) (s : State) : (s.withAddr a).cfg = s.cfg := rfl
@[simp] theorem State.withAddr_inputs (a : Addr7) (s : State) : (s.withAddr a).inputs = s.inputs := rfl
@[simp] theorem State.withAddr_answers (a : Addr7) (s : State) : (s.withAddr a).answers = s.answers := rfl
@[simp] theorem State.withAddr_trace (a : Addr7) (s : State) : (s.withAddr a).trace = s.trace := rfl

@[simp] theorem State.withCf_phase (c : ControlFlags) (s : State) : (s.withCf c).phase = s.phase := rfl
@[simp] theorem State.withCf_rdy (c : ControlFlags) (s : State) : (s.withCf c).rdy = s.rdy := rfl
@[simp] theorem State.withCf_addr (c : ControlFlags) (s : State) : (s.withCf c).addr = s.addr := rfl
@[simp] theorem State.withCf_cf (c : ControlFlags) (s : State) : (s.withCf c).cf = c := rfl
@[simp] theorem State.withCf_bl (c : ControlFlags) (s : State) : (s.withCf c).bl = s.bl := rfl
@[simp] theorem State.withCf_busy (c : ControlFlags) (s : State) : (s.withCf c).busy = s.busy := rfl
@[simp] theorem State.withCf_cfg (c : ControlFlags) (s : State) : (s.withCf c).cfg = s.cfg := rfl
@[simp] theorem State.withCf_inputs (c : ControlFlags) (s : State) : (s.withCf c).inputs = s.inputs := rfl
@[simp] theorem State.withCf_answers (c : ControlFlags) (s : State) : (s.withCf c).answers = s.answers := rfl
@[simp] theorem State.withCf_trace (c : ControlFlags) (s : State) : (s.withCf c).trace = s.trace := rfl

@[simp] theorem State.withBl_phase (v : Bool) (s : State) : (s.withBl v).phase = s.phase := rfl
@[simp] theorem State.withBl_rdy (v : Bool) (s : State) : (s.withBl v).rdy = s.rdy := rfl
@[simp] theorem State.withBl_addr (v : Bool) (s : State) : (s.withBl v).addr = s.addr := rfl
@[simp] theorem State.withBl_cf (v : Bool) (s : State) : (s.withBl v).cf = s.cf := rfl
@[simp] theorem State.withBl_bl (v : Bool) (s : State) : (s.withBl v).bl = v := rfl
@[simp] theorem State.withBl_busy (v : Bool) (s : State) : (s.withBl v).busy = s.busy := rfl
@[simp] theorem State.withBl_cfg (v : Bool) (s : State) : (s.withBl v).cfg = s.cfg := rfl
@[simp] theorem State.withBl_inputs (v : Bool) (s : State) : (s.withBl v).inputs = s.inputs := rfl
@[simp] theorem State.withBl_answers (v : Bool) (s : State) : (s.withBl v).answers = s.answers := rfl
@[simp] theorem State.withBl_trace (v : Bool) (s : State) : (s.withBl v).trace = s.trace := rfl

@[simp] theorem State.withBusy_phase (v : Bool) (s : State) : (s.withBusy v).phase = s.phase := rfl
@[simp] theorem State.withBusy_rdy (v : Bool) (s : State) : (s.withBusy v).rdy = s.rdy := rfl
@[simp] theorem State.withBusy_addr (v : Bool) (s : State) : (s.withBusy v).addr = s.addr := rfl
@[simp] theorem State.withBusy_cf (v : Bool) (s : State) : (s.withBusy v).cf = s.cf := rfl
@[simp] theorem State.withBusy_bl (v : Bool) (s : State) : (s.withBusy v).bl = s.bl := rfl
@[simp] theorem State.withBusy_busy (v : Bool) (s : State) : (s.withBusy v).busy = v := rfl
@[simp] theorem State.withBusy_cfg (v : Bool) (s : State) : (s.withBusy v).cfg = s.cfg := rfl
@[simp] theorem State.withBusy_inputs (v : Bool) (s : State) : (s.withBusy v).inputs = s.inputs := rfl
@[simp] theorem State.withBusy_answers (v : Bool) (s : State) : (s.withBusy v).answers = s.answers := rfl
@[simp] theorem State.withBusy_trace (v : Bool) (s : State) : (s.withBusy v).trace = s.trace := rfl

@[simp] theorem State.withInputs_phase (l : List Input) (s : State) : (s.withInputs l).phase = s.phase := rfl
@[simp] theorem State.withInputs_rdy (l : List Input) (s : State) : (s.withInputs l).rdy = s.rdy := rfl
@[simp] theorem State.withInputs_addr (l : List Input) (s : State) : (s.withInputs l).addr = s.addr := rfl
@[simp] theorem State.withInputs_cf (l : List Input) (s : State) : (s.withInputs l).cf = s.cf := rfl
@[simp] theorem State.withInputs_bl (l : List Input) (s : State) : (s.withInputs l).bl = s.bl := rfl
@[simp] theorem State.withInputs_busy (l : List Input) (s : State) : (s.withInputs l).busy = s.busy := rfl
@[simp] theorem State.withInputs_cfg (l : List Input) (s : State) : (s.withInputs l).cfg = s.cfg := rfl
@[simp] theorem State.withInputs_inputs (l : List Input) (s : State) : (s.withInputs l).inputs = l := rfl
@[simp] theorem State.withInputs_answers (l : List Input) (s : State) : (s.withInputs l).answers = s.answers := rfl
@[simp] theorem State.withInputs_trace (l : List Input) (s : State) : (s.withInputs l).trace = s.trace := rfl

@[simp] theorem State.withAnswers_phase (a : Answers) (s : State) : (s.withAnswers a).phase = s.phase := rfl
@[simp] theorem State.withAnswers_rdy (a : Answers) (s : State) : (s.withAnswers a).rdy = s.rdy := rfl
@[simp] theorem State.withAnswers_addr (a : Answers) (s : State) : (s.withAnswers a).addr = s.addr := rfl
@[simp] theorem State.withAnswers_cf (a : Answers) (s : State) : (s.withAnswers a).cf = s.cf := rfl
@[simp] theorem State.withAnswers_bl (a : Answers) (s : State) : (s.withAnswers a).bl = s.bl := rfl
@[simp] theorem State.withAnswers_busy (a : Answers) (s : State) : (s.withAnswers a).busy = s.busy := rfl
@[simp] theorem State.withAnswers_cfg (a : Answers) (s : State) : (s.withAnswers a).cfg = s.cfg := rfl
@[simp] theorem State.withAnswers_inputs (a : Answers) (s : State) : (s.withAnswers a).inputs = s.inputs := rfl
@[simp] theorem State.withAnswers_answers (a : Answers) (s : State) : (s.withAnswers a).answers = a := rfl
@[simp] theorem State.withAnswers_trace (a : Answers) (s : State) : (s.withAnswers a).trace = s.trace := rfl

@[simp] theorem State.record_phase (e : Event) (s : State) : (s.record e).phase = s.phase := rfl
@[simp] theorem State.record_rdy (e : Event) (s : State) : (s.record e).rdy = s.rdy := rfl
@[simp] theorem State.record_addr (e : Event) (s : State) : (s.record e).addr = s.addr := rfl
@[simp] theorem State.record_cf (e : Event) (s : State) : (s.record e).cf = s.cf := rfl
@[simp] theorem State.record_bl (e : Event) (s : State) : (s.record e).bl = s.bl := rfl
@[simp] theorem State.record_busy (e : Event) (s : State) : (s.record e).busy = s.busy := rfl
@[simp] theorem State.record_cfg (e : Event) (s : State) : (s.record e).cfg = s.cfg := rfl
@[simp] theorem State.record_inputs (e : Event) (s : State) : (s.record e).inputs = s.inputs := rfl
@[simp] theorem State.record_answers (e : Event) (s : State) : (s.record e).answers = s.answers := rfl
@[simp] theorem State.record_trace (e : Event) (s : State) : (s.record e).trace = s.trace ++ [e] := rfl

@[simp] theorem State.popWriteAnswer_phase (s : State) : s.popWriteAnswer.phase = s.phase := rfl
@[simp] theorem State.popWriteAnswer_rdy (s : State) : s.popWriteAnswer.rdy = s.rdy := rfl
@[simp] theorem State.popWriteAnswer_addr (s : State) : s.popWriteAnswer.addr = s.addr := rfl
@[simp] theorem State.popWriteAnswer_cf (s : State) : s.popWriteAnswer.cf = s.cf := rfl
@[simp] theorem State.popWriteAnswer_bl (s : State) : s.popWriteAnswer.bl = s.bl := rfl
@[simp] theorem State.popWriteAnswer_busy (s : State) : s.popWriteAnswer.busy = s.busy := rfl
@[simp] theorem State.popWriteAnswer_cfg (s : State) : s.popWriteAnswer.cfg = s.cfg := rfl
@[simp] theorem State.popWriteAnswer_inputs (s : State) : s.popWriteAnswer.inputs = s.inputs := rfl
@[simp] theorem State.popWriteAnswer_answers (s : State) : s.popWriteAnswer.answers = { s.answers with writes := s.answers.writes.tail } := rfl
@[simp] theorem State.popWriteAnswer_trace (s : State) : s.popWriteAnswer.trace = s.trace := rfl

@[simp] theorem State.completed_phase (es : List Event) (s : State) : (s.completed es).phase = s.phase := rfl
@[simp] theorem State.completed_rdy (es : List Event) (s : State) : (s.completed es).rdy = s.rdy := rfl
@[simp] theorem State.completed_addr (es : List Event) (s : State) : (s.completed es).addr = s.addr := rfl
@[simp] theorem State.completed_cf (es : List Event) (s : State) : (s.completed es).cf = s.cf := rfl
@[simp] theorem State.completed_bl (es : List Event) (s : State) : (s.completed es).bl = s.bl := rfl
@[simp] theorem State.completed_busy (es : List Event) (s : State) : (s.completed es).busy = false := rfl
@[simp] theorem State.completed_cfg (es : List Event) (s : State) : (s.completed es).cfg = s.cfg := rfl
@[simp] theorem State.completed_inputs (es : List Event) (s : State) : (s.completed es).inputs = s.inputs := rfl
@[simp] theorem State.completed_answers (es : List Event) (s : State) : (s.completed es).answers = Answers.none := rfl
@[simp] theorem State.completed_trace (es : List Event) (s : State) : (s.completed es).trace = s.trace ++ es := rfl

@[simp] theorem State.applyReset_phase (s : State) : s.applyReset.phase = .unconstructed := rfl
@[simp] theorem State.applyReset_rdy (s : State) : s.applyReset.rdy = false := rfl
@[simp] theorem State.applyReset_addr (s : State) : s.applyReset.addr = 0 := rfl
@[simp] theorem State.applyReset_cf (s : State) : s.applyReset.cf = { d := false, c := false, b := false } := rfl
@[simp] theorem State.applyReset_bl (s : State) : s.applyReset.bl = false := rfl
@[simp] theorem State.applyReset_busy (s : State) : s.applyReset.busy = false := rfl
@[simp] theorem State.applyReset_cfg (s : State) : s.applyReset.cfg = s.cfg := rfl
@[simp] theorem State.applyReset_inputs (s : State) : s.applyReset.inputs = s.inputs := rfl
@[simp] theorem State.applyReset_answers (s : State) : s.applyReset.answers = Answers.none := rfl
@[simp] theorem State.applyReset_trace (s : State) : s.applyReset.trace = s.trace := rfl

@[simp] theorem State.reset_phase : State.reset.phase = .unconstructed := rfl
@[simp] theorem State.reset_rdy : State.reset.rdy = false := rfl
@[simp] theorem State.reset_addr : State.reset.addr = 0 := rfl
@[simp] theorem State.reset_cf : State.reset.cf = { d := false, c := false, b := false } := rfl
@[simp] theorem State.reset_bl : State.reset.bl = false := rfl
@[simp] theorem State.reset_busy : State.reset.busy = false := rfl
@[simp] theorem State.reset_cfg : State.reset.cfg = Config.hardware := rfl
@[simp] theorem State.reset_inputs : State.reset.inputs = [] := rfl
@[simp] theorem State.reset_answers : State.reset.answers = Answers.none := rfl
@[simp] theorem State.reset_trace : State.reset.trace = [] := rfl

@[simp] theorem State.forget_phase (s : State) : s.forget.phase = s.phase := rfl
@[simp] theorem State.forget_rdy (s : State) : s.forget.rdy = s.rdy := rfl
@[simp] theorem State.forget_addr (s : State) : s.forget.addr = s.addr := rfl
@[simp] theorem State.forget_cf (s : State) : s.forget.cf = s.cf := rfl
@[simp] theorem State.forget_bl (s : State) : s.forget.bl = s.bl := rfl
@[simp] theorem State.forget_busy (s : State) : s.forget.busy = s.busy := rfl
@[simp] theorem State.forget_cfg (s : State) : s.forget.cfg = s.cfg := rfl
@[simp] theorem State.forget_inputs (s : State) : s.forget.inputs = s.inputs.map Input.forget := rfl
@[simp] theorem State.forget_answers (s : State) : s.forget.answers = s.answers.forget := rfl
@[simp] theorem State.forget_trace (s : State) : s.forget.trace = s.trace := rfl

@[simp] theorem withDisplay_d (v : Bool) (cf : ControlFlags) : (withDisplay v cf).d = v := rfl
@[simp] theorem withDisplay_c (v : Bool) (cf : ControlFlags) : (withDisplay v cf).c = cf.c := rfl
@[simp] theorem withDisplay_b (v : Bool) (cf : ControlFlags) : (withDisplay v cf).b = cf.b := rfl

@[simp] theorem Run.andThen_done (s : State) (f : State → Run) : (Run.done s).andThen f = f s := rfl
@[simp] theorem Run.andThen_hung (s : State) (f : State → Run) : (Run.hung s).andThen f = .hung s := rfl

theorem Run.andThen_assoc (r : Run) (f g : State → Run) : (r.andThen f).andThen g = r.andThen fun s => (f s).andThen g := by
  cases r <;> rfl

end Sys2Proof.Machine
end

