-- ==== Sys2Proof/Laws/Ops.lean ====
section
/-! SUPPORT. What each shared operation can do, said once. Every transmitting operation is `emitAll` of a list of events that a rule names; `emitAll`
either completes with all of them emitted or hangs after a `WRITE` of the list. -/

namespace Sys2Proof.Machine

/-! ## Emission -/

/-- The state after the events `es` have been emitted and the answers `a` are left. -/
def State.emitted (es : List Event) (a : Answers) (s : State) : State :=
  { s with trace := s.trace ++ es, answers := a }

@[simp] theorem State.emitted_phase (es a) (s : State) : (s.emitted es a).phase = s.phase := rfl
@[simp] theorem State.emitted_rdy (es a) (s : State) : (s.emitted es a).rdy = s.rdy := rfl
@[simp] theorem State.emitted_addr (es a) (s : State) : (s.emitted es a).addr = s.addr := rfl
@[simp] theorem State.emitted_cf (es a) (s : State) : (s.emitted es a).cf = s.cf := rfl
@[simp] theorem State.emitted_bl (es a) (s : State) : (s.emitted es a).bl = s.bl := rfl
@[simp] theorem State.emitted_busy (es a) (s : State) : (s.emitted es a).busy = s.busy := rfl
@[simp] theorem State.emitted_cfg (es a) (s : State) : (s.emitted es a).cfg = s.cfg := rfl
@[simp] theorem State.emitted_inputs (es a) (s : State) : (s.emitted es a).inputs = s.inputs := rfl
@[simp] theorem State.emitted_answers (es a) (s : State) : (s.emitted es a).answers = a := rfl
@[simp] theorem State.emitted_trace (es a) (s : State) : (s.emitted es a).trace = s.trace ++ es := rfl

theorem State.emitted_emitted (es fs a b) (s : State) : (s.emitted es a).emitted fs b = s.emitted (es ++ fs) b := by
  simp [State.emitted]

theorem State.emitted_nil (s : State) : s.emitted [] s.answers = s := by simp [State.emitted]

/-- The answers left after the `WRITE`s of a list have used theirs. -/
def Answers.after (a : Answers) (es : List Event) : Answers := { a with writes := a.writes.drop (es.countP Event.isWrite) }

/-- One event either completes or, for a `WRITE` that is never completed, hangs (R206). -/
theorem emit_cases (e : Event) (s : State) :
    (emit e s = .done (s.emitted [e] (s.answers.after [e])) ∧ (e.isWrite = true → s.answers.writes.head? ≠ some .never)) ∨
      (emit e s = .hung (s.emitted [e] (s.answers.after [e])) ∧ e.isWrite = true ∧ s.answers.writes.head? = some .never) := by
  cases e with
  | write a b =>
    by_cases h : s.answers.writes.head? = some .never <;>
      simp [emit, h, State.emitted, Answers.after, Event.isWrite, State.record, State.popWriteAnswer]
  | probe a r => simp [emit, State.emitted, Answers.after, Event.isWrite, State.record]
  | wait t => simp [emit, State.emitted, Answers.after, Event.isWrite, State.record]

theorem emitAll_append (es fs : List Event) (s : State) : emitAll (es ++ fs) s = (emitAll es s).andThen (emitAll fs) := by
  induction es generalizing s with
  | nil => rfl
  | cons e es ih =>
    show (emit e s).andThen (emitAll (es ++ fs)) = ((emit e s).andThen (emitAll es)).andThen (emitAll fs)
    rw [Run.andThen_assoc]
    congr 1
    exact funext ih

theorem emitAll_singleton (e : Event) (s : State) : emitAll [e] s = emit e s := by
  simp only [emitAll]
  cases emit e s <;> rfl

theorem Answers.after_append (a : Answers) (es fs : List Event) : (a.after es).after fs = a.after (es ++ fs) := by
  simp [Answers.after, List.countP_append]

theorem Answers.after_writes_subset (a : Answers) (es : List Event) : (a.after es).writes ⊆ a.writes := List.drop_subset _ _

/-- Events in order: all of them emitted, or stuck right after a `WRITE` of the list that the transport never completes, with every event before it
emitted (R62, R206). -/
theorem emitAll_cases (es : List Event) (s : State) :
    emitAll es s = .done (s.emitted es (s.answers.after es)) ∨
      ∃ pre a b post, es = pre ++ .write a b :: post ∧ WriteAnswer.never ∈ s.answers.writes ∧
        emitAll es s = .hung (s.emitted (pre ++ [.write a b]) (s.answers.after (pre ++ [.write a b]))) := by
  induction es generalizing s with
  | nil => left; simp [emitAll, Answers.after, State.emitted]
  | cons e es ih =>
    rcases emit_cases e s with ⟨h, -⟩ | ⟨h, hw, hn⟩
    · rcases ih (s.emitted [e] (s.answers.after [e])) with h' | ⟨pre, a, b, post, rfl, hm, h'⟩
      · left
        simp [emitAll, h, h', State.emitted_emitted, Answers.after_append]
      · right
        exact ⟨e :: pre, a, b, post, rfl, Answers.after_writes_subset _ _ hm,
          by simp [emitAll, h, h', State.emitted_emitted, Answers.after_append]⟩
    · right
      cases e with
      | write a b => exact ⟨[], a, b, es, rfl, List.mem_of_mem_head? hn, by simp [emitAll, h]⟩
      | probe a r => simp [Event.isWrite] at hw
      | wait t => simp [Event.isWrite] at hw

/-- Where the transport completes every `WRITE`, all the events go out (R108). -/
theorem emitAll_completes (es : List Event) (s : State) (h : TransportCompletes s) :
    emitAll es s = .done (s.emitted es (s.answers.after es)) := by
  rcases emitAll_cases es s with h' | ⟨_, _, _, _, -, hm, -⟩
  · exact h'
  · exact absurd hm h

/-! ## Which answers an emission uses -/

/-- The transport completes the `WRITE`s of `pre` and never the one after them (R206). -/
def Answers.StuckAfter (a : Answers) (pre : List Event) : Prop :=
  WriteAnswer.never ∉ a.writes.take (pre.countP Event.isWrite) ∧ a.writes[pre.countP Event.isWrite]? = some .never

/-- `r` has emitted `es` since `s`, each `WRITE` with an answer of its own that completes it; or it is stuck in the first `WRITE` whose answer is `never`. -/
def Uses (s : State) (es : List Event) (r : Run) : Prop :=
  match r with
  | .done t => t.trace = s.trace ++ es ∧ t.answers = s.answers.after es ∧ WriteAnswer.never ∉ s.answers.writes.take (es.countP Event.isWrite)
  | .hung t => ∃ pre a b post, es = pre ++ .write a b :: post ∧ t.trace = s.trace ++ (pre ++ [.write a b]) ∧ s.answers.StuckAfter pre

/-- The answers that are left after the `WRITE`s of `es` and those that `fs` uses. -/
theorem Answers.never_take_append (a : Answers) (es : List Event) (n : Nat) (h : WriteAnswer.never ∉ a.writes.take (es.countP Event.isWrite))
    (h' : WriteAnswer.never ∉ (a.after es).writes.take n) : WriteAnswer.never ∉ a.writes.take (es.countP Event.isWrite + n) := by
  rw [List.take_add]
  simp only [List.mem_append, not_or]
  exact ⟨h, h'⟩

theorem Uses.andThen {s : State} {es fs : List Event} {r : Run} {f : State → Run} (h : Uses s es r) (hf : ∀ t, r = .done t → Uses t fs (f t)) :
    Uses s (es ++ fs) (r.andThen f) := by
  cases r with
  | hung t =>
    obtain ⟨pre, a, b, post, rfl, htr, hs⟩ := h
    exact ⟨pre, a, b, post ++ fs, by simp, htr, hs⟩
  | done t =>
    obtain ⟨htr, ha, hn⟩ := h
    have h' := hf t rfl
    rw [Run.andThen_done]
    cases hr : f t with
    | done u =>
      rw [hr] at h'
      obtain ⟨htr', ha', hn'⟩ := h'
      rw [ha] at ha' hn'
      refine ⟨by rw [htr', htr, List.append_assoc], by rw [ha', Answers.after_append], ?_⟩
      rw [List.countP_append]
      exact Answers.never_take_append _ _ _ hn hn'
    | hung u =>
      rw [hr] at h'
      obtain ⟨pre, a, b, post, rfl, htr', hn', hs'⟩ := h'
      rw [ha] at hn' hs'
      refine ⟨es ++ pre, a, b, post, by simp, by rw [htr', htr]; simp, ?_, ?_⟩
      · rw [List.countP_append]
        exact Answers.never_take_append _ _ _ hn hn'
      · rw [List.countP_append]
        simpa [Answers.after] using hs'

theorem uses_emit (e : Event) (s : State) : Uses s [e] (emit e s) := by
  rcases emit_cases e s with ⟨h, hn⟩ | ⟨h, hw, hn⟩
  · rw [h]
    refine ⟨rfl, rfl, ?_⟩
    cases hw : e.isWrite with
    | false => rw [List.countP_singleton, hw]; simp
    | true =>
      have := hn hw
      cases hs : s.answers.writes with
      | nil => simp
      | cons x xs =>
        rw [hs, List.head?_cons] at this
        rw [List.countP_singleton, hw]
        simpa [eq_comm] using this
  · rw [h]
    cases e with
    | write a b => exact ⟨[], a, b, [], rfl, rfl, by simp, by simpa [List.head?_eq_getElem?] using hn⟩
    | probe a r => simp [Event.isWrite] at hw
    | wait t => simp [Event.isWrite] at hw

theorem uses_emitAll (es : List Event) (s : State) : Uses s es (emitAll es s) := by
  induction es generalizing s with
  | nil => exact ⟨by simp, by simp [Answers.after], by simp⟩
  | cons e es ih => exact (uses_emit e s).andThen fun t _ => ih t

/-! ## The transmit path -/

/-- `RDY` = 1: one pulse; `RDY` = 0: nothing (R103). -/
theorem sendNibble_eq (v : Nibble) (isData : Bool) (s : State) :
    sendNibble v isData s =
      emitAll (if s.rdy then pulseEvents s.cfg s.addr (nibbleByte s.cfg.pins v isData s.bl) else []) s := by
  unfold sendNibble
  split <;> rfl

/-- A byte is its eight events (R106), or none with `RDY` = 0. -/
theorem sendByte_eq (v : Byte) (isData : Bool) (s : State) : sendByte v isData s = emitAll (s.byteEvents v isData) s := by
  unfold sendByte State.byteEvents
  rw [sendNibble_eq]
  by_cases hr : s.rdy = true
  · simp only [hr, if_true, byteEvents, emitAll_append]
    rcases emitAll_cases (pulseEvents s.cfg s.addr (nibbleByte s.cfg.pins (highNibble v) isData s.bl)) s with h | ⟨_, _, _, _, -, -, h⟩
    · simp [h, sendNibble_eq, hr]
    · simp [h]
  · simp [hr, emitAll, sendNibble_eq]

theorem sendControl_eq (s : State) : sendControl s = emitAll (s.byteEvents (dispCtlByte s.cf) false) s := sendByte_eq _ _ _

theorem settle_eq (t : Nat) (s : State) : settle t s = emitAll (s.waitEvents t) s := by
  unfold settle State.waitEvents
  split
  · rw [emitAll_singleton]
  · rfl

theorem clearBody_eq (s : State) :
    clearBody s = emitAll (s.byteEvents cmdClear false ++ s.waitEvents delayClear) s := by
  rw [emitAll_append, clearBody, sendCommand, sendByte_eq]
  rcases emitAll_cases (s.byteEvents cmdClear false) s with h | ⟨_, _, _, _, -, -, h⟩
  · simp only [h, Run.andThen_done, settle_eq]
    rfl
  · simp [h]

/-! ## The display requests -/

/-- Every display request, legal: its update, then its events, then completion or a hang. -/
theorem exec_display_eq (i : Instr) (s : State) (hi : isConstruct i = false) (hl : displayLegal s.phase = true) :
    exec i s = finish (emitAll (requestEvents i (requestUpdate i (s.withBusy true))) (requestUpdate i (s.withBusy true))) := by
  cases i with
  | construct a => simp [isConstruct] at hi
  | clear =>
    simp only [exec, execClear, displayRequest, hl, if_true, clearBody_eq]
    rfl
  | setCursor x y =>
    simp [exec, execSetCursor, displayRequest, hl, setCursorBody, sendCommand, sendByte_eq, requestEvents, requestUpdate]
  | backlightOn => simp [exec, execBacklightOn, displayRequest, hl, backlightBody, sendControl_eq, requestEvents, requestUpdate]
  | backlightOff => simp [exec, execBacklightOff, displayRequest, hl, backlightBody, sendControl_eq, requestEvents, requestUpdate]
  | displayOn => simp [exec, execDisplayOn, displayRequest, hl, displayBody, sendControl_eq, requestEvents, requestUpdate]
  | displayOff => simp [exec, execDisplayOff, displayRequest, hl, displayBody, sendControl_eq, requestEvents, requestUpdate]
  | printChar c => simp [exec, execPrintChar, displayRequest, hl, sendData, sendByte_eq, requestEvents, requestUpdate]

/-- An illegal display request is refused as `NOT_CONSTRUCTED` (R211). -/
theorem exec_display_refused (i : Instr) (s : State) (hi : isConstruct i = false) (hl : displayLegal s.phase = false) :
    exec i s = .refused .notConstructed := by
  cases i with
  | construct a => simp [isConstruct] at hi
  | clear => simp [exec, execClear, displayRequest, hl]
  | setCursor x y => simp [exec, execSetCursor, displayRequest, hl]
  | backlightOn => simp [exec, execBacklightOn, displayRequest, hl]
  | backlightOff => simp [exec, execBacklightOff, displayRequest, hl]
  | displayOn => simp [exec, execDisplayOn, displayRequest, hl]
  | displayOff => simp [exec, execDisplayOff, displayRequest, hl]
  | printChar c => simp [exec, execPrintChar, displayRequest, hl]

/-- `finish` of an emission: completed with every event, or busy right after a `WRITE` of the list. -/
theorem finish_emitAll_cases (es : List Event) (s : State) :
    finish (emitAll es s) = .next (s.completed es) ∨
      ∃ pre a b post ans, es = pre ++ .write a b :: post ∧ WriteAnswer.never ∈ s.answers.writes ∧
        finish (emitAll es s) = .next (s.emitted (pre ++ [.write a b]) ans) := by
  rcases emitAll_cases es s with h | ⟨pre, a, b, post, he, hm, h⟩
  · left; rw [h]; rfl
  · right; exact ⟨pre, a, b, post, _, he, hm, by rw [h]; rfl⟩

/-- Where the transport completes every `WRITE`, a display request completes with all its events. -/
theorem exec_display_completes (i : Instr) (s : State) (hi : isConstruct i = false) (hl : displayLegal s.phase = true)
    (ht : TransportCompletes s) :
    exec i s = .next ((requestUpdate i s).completed (requestEvents i (requestUpdate i s))) := by
  have ht' : TransportCompletes (requestUpdate i (s.withBusy true)) := by cases i <;> exact ht
  rw [exec_display_eq i s hi hl, emitAll_completes _ _ ht']
  cases i <;> rfl

end Sys2Proof.Machine
end

