-- ==== Sys2Proof/Laws/Init.lean ====
section
/-! SUPPORT. What CONSTRUCT can do, said once: it completes with the trace of spec/41_init.md R135, or it is refused, or the probe fails, or it is
stuck in one sequencer state with a part of that trace emitted. -/

namespace Sys2Proof.Machine

/-- `t` is a state inside the init sequence begun at `s` (R120): what has not changed yet, and where the sequencer can stand. -/
structure InsideInit (s t : State) : Prop where
  rdy : t.rdy = true
  addr : t.addr = s.addr
  cfg : t.cfg = s.cfg
  inputs : t.inputs = s.inputs
  busy : t.busy = s.busy
  cursor : t.cf.c = s.cf.c
  blink : t.cf.b = s.cf.b
  phase : rdyPhase t.phase = true
  rank : 2 ≤ phaseRank t.phase ∧ phaseRank t.phase ≤ 12
  dark : phaseRank t.phase < 10 → t.bl = s.bl ∧ (t.cf.d = s.cf.d ∨ t.cf.d = false)

/-- `r` has emitted `es` since `s` and stands at `mid`, or is stuck in a `WRITE` of `es`. -/
def Reaches (s : State) (es : List Event) (mid : State) (r : Run) : Prop :=
  Uses s es r ∧
    ((∃ a, a.writes ⊆ s.answers.writes ∧ r = .done { mid with trace := s.trace ++ es, answers := a }) ∨
      ∃ t pre a b post, r = .hung t ∧ InsideInit s t ∧ WriteAnswer.never ∈ s.answers.writes ∧
        es = pre ++ .write a b :: post ∧ t.trace = s.trace ++ (pre ++ [.write a b]))

/-- One more segment of the sequence: an update of the state, then the events `fs`. -/
theorem Reaches.segment {s mid : State} {es : List Event} {r : Run} (h : Reaches s es mid r) (f : State → Run) (fs : List Event)
    (mid' : State) (hf : ∀ tr a, f { mid with trace := tr, answers := a } = emitAll fs { mid' with trace := tr, answers := a })
    (hw : InsideInit s mid') : Reaches s (es ++ fs) mid' (r.andThen f) := by
  rcases h with ⟨hU, ⟨a, ha, rfl⟩ | ⟨t, pre, a, b, post, rfl, ht, hm, rfl, htr⟩⟩
  · refine ⟨hU.andThen fun t he => ?_, ?_⟩
    · cases he
      rw [hf]
      exact uses_emitAll fs { mid' with trace := s.trace ++ es, answers := a }
    rw [Run.andThen_done, hf]
    rcases emitAll_cases fs { mid' with trace := s.trace ++ es, answers := a } with h | ⟨pre, x, y, post, rfl, hm, h⟩
    · left
      exact ⟨_, fun _ hx => ha (Answers.after_writes_subset _ _ hx), h.trans (by simp only [State.emitted, List.append_assoc]; rfl)⟩
    · right
      refine ⟨_, es ++ pre, x, y, post, h, ?_, ha hm, by simp, by simp⟩
      exact ⟨hw.rdy, hw.addr, hw.cfg, hw.inputs, hw.busy, hw.cursor, hw.blink, hw.phase, hw.rank, hw.dark⟩
  · refine ⟨hU.andThen fun _ he => ?_, .inr ⟨t, pre, a, b, post ++ fs, rfl, ht, hm, by simp, htr⟩⟩
    cases he

theorem byteEvents_ready (s : State) (v : Byte) (isData : Bool) (h : s.rdy = true) :
    s.byteEvents v isData = byteEvents s.cfg s.addr s.bl v isData := by
  simp [State.byteEvents, h]

/-- The events of the init sequence after the probe (R135, rows 2 to 11), in segments of one sequencer state each. -/
theorem initEvents_segments (cfg : Params) (addr : Addr7) (cf : ControlFlags) (bl : Bool) :
    initEvents cfg addr cf bl = [.probe addr true] ++
      (((((((((((pulseEvents cfg addr (nibbleByte cfg.pins nibFs8 false bl) ++ [.wait delayPulse1]) ++
      (pulseEvents cfg addr (nibbleByte cfg.pins nibFs8 false bl) ++ [.wait delayPulse2])) ++
      (pulseEvents cfg addr (nibbleByte cfg.pins nibFs8 false bl) ++ [.wait delayPulse3])) ++
      pulseEvents cfg addr (nibbleByte cfg.pins nibFs4 false bl)) ++
      byteEvents cfg addr bl cmdFunc false) ++
      byteEvents cfg addr bl (dispCtlByte (withDisplay false cf)) false) ++
      (byteEvents cfg addr bl cmdClear false ++ [.wait delayClear])) ++
      byteEvents cfg addr bl cmdEntry false) ++
      byteEvents cfg addr true (dispCtlByte (withDisplay false cf)) false) ++
      byteEvents cfg addr true (dispCtlByte (withDisplay true cf)) false) ++ []) := by
  simp only [initEvents, delayPulse1, delayPulse2, delayPulse3, delayClear, List.append_assoc, List.append_nil]

theorem forcePulse_eq (p : Phase) (t : Nat) (s : State) (h : s.rdy = true) :
    forcePulse p t s =
      emitAll (pulseEvents s.cfg s.addr (nibbleByte s.cfg.pins nibFs8 false s.bl) ++ [.wait t]) (s.withPhase p) := by
  rw [emitAll_append, forcePulse, sendNibble_eq]
  simp only [State.withPhase_rdy, h, if_true, State.withPhase_cfg, State.withPhase_addr, State.withPhase_bl]
  exact congrArg _ (funext fun u => (emitAll_singleton (.wait t) u).symm)

/-- The init sequence begun with `RDY` = 1 emits the events of R135 after the probe and ends in `READY`, or is stuck inside (R120, R206). -/
theorem initSequence_reaches (s : State) (h : s.rdy = true) :
    Reaches s (initEvents s.cfg s.addr s.cf s.bl).tail
      { s with phase := .ready, bl := true, cf := withDisplay true s.cf } (initSequence s) := by
  have start : Reaches s [] s (.done s) := ⟨uses_emitAll [] s, .inl ⟨s.answers, fun _ h => h, by simp⟩⟩
  have inside (p : Phase) (hp : rdyPhase p = true) (hk : 2 ≤ phaseRank p ∧ phaseRank p < 10) (cf : ControlFlags)
      (hc : cf = s.cf ∨ cf = withDisplay false s.cf) : InsideInit s { s with phase := p, cf := cf } := by
    rcases hc with rfl | rfl <;>
      exact ⟨h, rfl, rfl, rfl, rfl, rfl, rfl, hp, ⟨hk.1, by simp only; omega⟩, fun _ => ⟨rfl, by simp⟩⟩
  have bright (p : Phase) (hp : rdyPhase p = true) (hk : 10 ≤ phaseRank p ∧ phaseRank p ≤ 12) (v : Bool) :
      InsideInit s { s with phase := p, cf := withDisplay v s.cf, bl := true } :=
    ⟨h, rfl, rfl, rfl, rfl, rfl, rfl, hp, ⟨by simp only; omega, hk.2⟩, fun hlt => absurd hlt (by simp only; omega)⟩
  have r1 := start.segment initF8First
    (pulseEvents s.cfg s.addr (nibbleByte s.cfg.pins nibFs8 false s.bl) ++ [Event.wait delayPulse1])
    { s with phase := .f8First }
    (fun tr a => forcePulse_eq .f8First delayPulse1 { s with trace := tr, answers := a } h)
    (inside .f8First rfl (by decide) s.cf (.inl rfl))
  have r2 := r1.segment initF8Second
    (pulseEvents s.cfg s.addr (nibbleByte s.cfg.pins nibFs8 false s.bl) ++ [Event.wait delayPulse2])
    { s with phase := .f8Second }
    (fun tr a => forcePulse_eq .f8Second delayPulse2 { s with phase := .f8First, trace := tr, answers := a } h)
    (inside .f8Second rfl (by decide) s.cf (.inl rfl))
  have r3 := r2.segment initF8Third
    (pulseEvents s.cfg s.addr (nibbleByte s.cfg.pins nibFs8 false s.bl) ++ [Event.wait delayPulse3])
    { s with phase := .f8Third }
    (fun tr a => forcePulse_eq .f8Third delayPulse3 { s with phase := .f8Second, trace := tr, answers := a } h)
    (inside .f8Third rfl (by decide) s.cf (.inl rfl))
  have r4 := r3.segment initSwitch4 (pulseEvents s.cfg s.addr (nibbleByte s.cfg.pins nibFs4 false s.bl)) { s with phase := .sw4 }
    (fun tr a => by simp [initSwitch4, sendNibble_eq, h, State.withPhase])
    (inside .sw4 rfl (by decide) s.cf (.inl rfl))
  have r5 := r4.segment initCfgFunc (byteEvents s.cfg s.addr s.bl cmdFunc false) { s with phase := .cfgFunc }
    (fun tr a => by simp [initCfgFunc, sendCommand, sendByte_eq, byteEvents_ready, h, State.withPhase])
    (inside .cfgFunc rfl (by decide) s.cf (.inl rfl))
  have r6 := r5.segment initCfgDispOff (byteEvents s.cfg s.addr s.bl (dispCtlByte (withDisplay false s.cf)) false)
    { s with phase := .cfgDispOff, cf := withDisplay false s.cf }
    (fun tr a => by simp [initCfgDispOff, displayBody, sendControl_eq, byteEvents_ready, h, State.withPhase, State.withCf])
    (inside .cfgDispOff rfl (by decide) _ (.inr rfl))
  have r7 := r6.segment initCfgClear (byteEvents s.cfg s.addr s.bl cmdClear false ++ [Event.wait delayClear])
    { s with phase := .cfgClear, cf := withDisplay false s.cf }
    (fun tr a => by simp [initCfgClear, clearBody_eq, byteEvents_ready, State.waitEvents, h, State.withPhase])
    (inside .cfgClear rfl (by decide) _ (.inr rfl))
  have r8 := r7.segment initCfgEntry (byteEvents s.cfg s.addr s.bl cmdEntry false)
    { s with phase := .cfgEntry, cf := withDisplay false s.cf }
    (fun tr a => by simp [initCfgEntry, sendCommand, sendByte_eq, byteEvents_ready, h, State.withPhase])
    (inside .cfgEntry rfl (by decide) _ (.inr rfl))
  have r9 := r8.segment initBacklightOn (byteEvents s.cfg s.addr true (dispCtlByte (withDisplay false s.cf)) false)
    { s with phase := .initBlOn, cf := withDisplay false s.cf, bl := true }
    (fun tr a => by simp [initBacklightOn, backlightBody, sendControl_eq, byteEvents_ready, h, State.withPhase, State.withBl])
    (bright .initBlOn rfl (by decide) false)
  have r10 := r9.segment initDisplayOn (byteEvents s.cfg s.addr true (dispCtlByte (withDisplay true s.cf)) false)
    { s with phase := .initDispOn, cf := withDisplay true s.cf, bl := true }
    (fun tr a => by
      simp [initDisplayOn, displayBody, sendControl_eq, byteEvents_ready, h, State.withPhase, State.withCf, withDisplay])
    (bright .initDispOn rfl (by decide) true)
  have r11 := r10.segment initReady [] { s with phase := .ready, cf := withDisplay true s.cf, bl := true }
    (fun tr a => rfl) (bright .ready rfl (by decide) true)
  have hrun : initSequence s = (((((((((((Run.done s).andThen initF8First).andThen initF8Second).andThen initF8Third).andThen
      initSwitch4).andThen initCfgFunc).andThen initCfgDispOff).andThen initCfgClear).andThen initCfgEntry).andThen
      initBacklightOn).andThen initDisplayOn).andThen initReady := by
    rw [initSequence, ← Run.andThen_assoc]
    rfl
  rw [hrun, initEvents_segments]
  exact r11

/-- CONSTRUCT in `UNCONSTRUCTED` with a probe answer of 0 (R123, R136). -/
theorem exec_construct_silent (addr : Addr7) (s : State) (hp : s.phase = .unconstructed) (hr : s.answers.probe = false) :
    exec (.construct addr) s =
      .next { s.completed [.probe addr false] with addr := addr, phase := .abandoned } := by
  simp only [exec, execConstruct, constructRequest, hp, if_true, constructBody]
  simp [hr, emit, finish, State.completed, State.record, State.withAddr, State.withPhase, State.withBusy, State.withAnswers]

/-- CONSTRUCT in `UNCONSTRUCTED` with a probe answer of 1 (R120, R135): completed with the events of R135, or stuck in the first `WRITE` of them that
the transport never completes (R206). -/
theorem exec_construct_answering (addr : Addr7) (s : State) (hp : s.phase = .unconstructed) (hr : s.answers.probe = true) :
    (exec (.construct addr) s =
        .next { s.completed (initEvents s.cfg addr s.cf s.bl) with
          addr := addr, rdy := true, phase := .ready, bl := true, cf := withDisplay true s.cf } ∧
        WriteAnswer.never ∉ s.answers.writes.take 32) ∨
      ∃ t pre a b post, exec (.construct addr) s = .next t ∧
        InsideInit { s with addr := addr, busy := true } t ∧ s.answers.StuckAfter pre ∧
        initEvents s.cfg addr s.cf s.bl = pre ++ .write a b :: post ∧ t.trace = s.trace ++ (pre ++ [.write a b]) := by
  let u : State := { s with addr := addr, rdy := true, phase := .powerOn, busy := true, trace := s.trace ++ [.probe addr true] }
  have hx : exec (.construct addr) s = finish (initSequence u) := by
    simp only [exec, execConstruct, constructRequest, hp, if_true, constructBody]
    simp [hr, emit, State.record, State.withAddr, State.withPhase, State.withBusy, State.withRdy, u]
  have hu : initEvents s.cfg addr s.cf s.bl = .probe addr true :: (initEvents u.cfg u.addr u.cf u.bl).tail := rfl
  obtain ⟨hU, ⟨a, -, h⟩ | ⟨t, pre, a, b, post, h, ht, -, -, -⟩⟩ := initSequence_reaches u rfl
  · left
    rw [h] at hU
    refine ⟨?_, hU.2.2⟩
    rw [hx, h, hu]
    simp [finish, State.completed, State.withBusy, State.withAnswers, u]
  · right
    rw [h] at hU
    obtain ⟨pre, a, b, post, he, htr, hs⟩ := hU
    refine ⟨t, .probe addr true :: pre, a, b, post, by rw [hx, h]; rfl, ?_, hs, by rw [hu, he]; rfl, by rw [htr]; simp [u]⟩
    exact ⟨ht.rdy, ht.addr, ht.cfg, ht.inputs, ht.busy, ht.cursor, ht.blink, ht.phase, ht.rank, ht.dark⟩

/-- A transport that leaves a request stuck never completes some `WRITE`. -/
theorem Answers.StuckAfter.never_mem {a : Answers} {pre : List Event} (h : a.StuckAfter pre) : WriteAnswer.never ∈ a.writes :=
  List.mem_of_getElem? h.2

/-- CONSTRUCT in `UNCONSTRUCTED` with a probe answer of 1 and a transport that completes every `WRITE` (R120, R135). -/
theorem exec_construct_completes (addr : Addr7) (s : State) (hp : s.phase = .unconstructed) (hr : s.answers.probe = true)
    (ht : TransportCompletes s) :
    exec (.construct addr) s = .next { s.completed (initEvents s.cfg addr s.cf s.bl) with
      addr := addr, rdy := true, phase := .ready, bl := true, cf := withDisplay true s.cf } := by
  rcases exec_construct_answering addr s hp hr with ⟨h, -⟩ | ⟨_, _, _, _, _, _, _, hs, _⟩
  · exact h
  · exact absurd hs.never_mem ht

end Sys2Proof.Machine
end

