-- ==== Sys2Proof/Laws/Step.lean ====
section
/-! SUPPORT. What a request and a step can do when they answer a next state, said once. -/

namespace Sys2Proof.Machine

/-- A display request that answers a next state: completed, or busy right after a `WRITE` of its events. -/
theorem exec_display_next (i : Instr) (s t : State) (hi : isConstruct i = false) (h : exec i s = .next t) :
    displayLegal s.phase = true ∧
      (t = (requestUpdate i s).completed (requestEvents i (requestUpdate i s)) ∨
        ∃ pre a b post ans, requestEvents i (requestUpdate i s) = pre ++ .write a b :: post ∧ WriteAnswer.never ∈ s.answers.writes ∧
          t = ((requestUpdate i s).withBusy true).emitted (pre ++ [.write a b]) ans) := by
  cases hl : displayLegal s.phase with
  | false => rw [exec_display_refused i s hi hl] at h; cases h
  | true =>
    refine ⟨rfl, ?_⟩
    rw [exec_display_eq i s hi hl] at h
    have hu : requestUpdate i (s.withBusy true) = (requestUpdate i s).withBusy true := by cases i <;> rfl
    have he : requestEvents i ((requestUpdate i s).withBusy true) = requestEvents i (requestUpdate i s) := by cases i <;> rfl
    rw [hu, he] at h
    rcases finish_emitAll_cases (requestEvents i (requestUpdate i s)) ((requestUpdate i s).withBusy true) with
      h' | ⟨pre, a, b, post, ans, hp, hm, h'⟩
    · left
      rw [h'] at h
      exact (Host.Outcome.next.inj h).symm
    · right
      rw [h'] at h
      exact ⟨pre, a, b, post, ans, hp, by cases i <;> exact hm, (Host.Outcome.next.inj h).symm⟩

/-- CONSTRUCT that answers a next state: abandoned, completed, or stuck inside the init sequence. -/
theorem exec_construct_next (addr : Addr7) (s t : State) (h : exec (.construct addr) s = .next t) :
    s.phase = .unconstructed ∧
      ((s.answers.probe = false ∧ t = { s.completed [.probe addr false] with addr := addr, phase := .abandoned }) ∨
        (s.answers.probe = true ∧ t = { s.completed (initEvents s.cfg addr s.cf s.bl) with
          addr := addr, rdy := true, phase := .ready, bl := true, cf := withDisplay true s.cf }) ∨
        (s.answers.probe = true ∧ InsideInit { s with addr := addr, busy := true } t ∧ WriteAnswer.never ∈ s.answers.writes ∧
          ∃ pre a b post, initEvents s.cfg addr s.cf s.bl = pre ++ .write a b :: post ∧
            t.trace = s.trace ++ (pre ++ [.write a b]))) := by
  by_cases hp : s.phase = .unconstructed
  · refine ⟨hp, ?_⟩
    cases hr : s.answers.probe with
    | false =>
      rw [exec_construct_silent addr s hp hr] at h
      exact .inl ⟨rfl, (Host.Outcome.next.inj h).symm⟩
    | true =>
      rcases exec_construct_answering addr s hp hr with ⟨h', -⟩ | ⟨u, pre, a, b, post, h', hu, hs, he, htr⟩
      · rw [h'] at h
        exact .inr (.inl ⟨rfl, (Host.Outcome.next.inj h).symm⟩)
      · rw [h'] at h
        cases h
        exact .inr (.inr ⟨rfl, hu, hs.never_mem, pre, a, b, post, he, htr⟩)
  · simp [exec, execConstruct, constructRequest, hp] at h

/-- A step that answers a next state: the block was not busy, and it waited, took a reset, or ran a decoded request. -/
theorem step_next (s t : State) (h : step s = .next t) :
    s.busy = false ∧
      ((s.inputs = [] ∧ t = s) ∨
        (∃ w rest, s.inputs = .reset w :: rest ∧ t = (s.withInputs rest).applyReset) ∨
        (∃ w a rest i, s.inputs = .request w a :: rest ∧ decode w = .ok i ∧
          exec i ((s.withInputs rest).withAnswers a) = .next t)) := by
  unfold step at h
  cases hb : s.busy with
  | true =>
    split at h
    · simp [waitForHost, hb] at h
    · rename_i m _ _
      cases m <;> simp [takeInput, takeRequest, takeReset, hb] at h
  | false =>
    refine ⟨rfl, ?_⟩
    split at h
    · rename_i hin
      rw [waitForHost, hb] at h
      exact .inl ⟨hin, (Host.Outcome.next.inj h).symm⟩
    · rename_i m rest hin
      cases m with
      | reset w =>
        rw [takeInput, takeReset, State.withInputs_busy, hb] at h
        exact .inr (.inl ⟨w, rest, hin, (Host.Outcome.next.inj h).symm⟩)
      | request w a =>
        simp only [takeInput, takeRequest, State.withInputs_busy, hb, runWord] at h
        cases hd : decode w with
        | error e => simp [hd] at h
        | ok i => exact .inr (.inr ⟨w, a, rest, i, hin, hd, by simpa [hd] using h⟩)

end Sys2Proof.Machine
end

