-- ==== Sys2Proof/Laws/PerInstr.lean ====
section
/-! SUPPORT. Statements about every instruction as text, one lemma per constructor. EncodedInItsRow: the encoder's word of a request is a word of its row of
spec/30_encoding.md R72. -/

namespace Sys2Proof.Laws.EncodedInItsRow

open Sys2Proof.Machine

/-- The request's word fits its row's match and mask (R72). -/
def Statement (i : Instr) : Prop := encode i &&& (opcodeRow i).mask = (opcodeRow i).value

theorem construct (addr : Addr7) : Statement (.construct addr) := by
  revert addr; unfold Statement; decide

theorem clear : Statement .clear := by unfold Statement; decide

theorem setCursor (x y : Byte) : Statement (.setCursor x y) := by
  unfold Statement
  ext k hk
  simp only [encode, requestWord, opcodeRow, BitVec.getElem_and, BitVec.getElem_append]
  interval_cases k <;> simp

theorem backlightOn : Statement .backlightOn := by unfold Statement; decide

theorem backlightOff : Statement .backlightOff := by unfold Statement; decide

theorem displayOn : Statement .displayOn := by unfold Statement; decide

theorem displayOff : Statement .displayOff := by unfold Statement; decide

theorem printChar (c : Byte) : Statement (.printChar c) := by
  revert c; unfold Statement; decide

end Sys2Proof.Laws.EncodedInItsRow
end

