-- ==== Sys2Proof/Tests/Slice0.lean ====
section
/-! SUPPORT. Tests against the vectors of spec/95_test_vectors.md (S1 to S8, V1 to V40) and the rules that each test names, and a witness for the
hypotheses of every statement that has some. Expected bytes are the spec's, written out by hand. -/

namespace Sys2Proof.Tests

open Sys2Proof Sys2Proof.Machine

/-! ## Helpers -/

/-- `PM_EX` (R82), with `WIDTH` = 16. -/
def pmEx : Params where
  pins := { d4 := 4, d5 := 5, d6 := 6, d7 := 7, rs := 0, en := 2, bl := 3 }
  width := 16
  tWrUs := 50
  pinsDistinct := by decide
  widthInRange := by decide

/-- `PM_X`, the scrambled pin map of 95_test_vectors.md. -/
def pmX : Params where
  pins := { d4 := 5, d5 := 0, d6 := 7, d7 := 2, rs := 3, en := 6, bl := 1 }
  width := 16
  tWrUs := 50
  pinsDistinct := by decide
  widthInRange := by decide

/-- `PM_EX` with another width (V22). -/
def withWidth (w : Nat) (h : WidthInRange w) : Params := { pmEx with width := w, widthInRange := h }

/-- Right after reset, under the given parameters, with a transport that answers the probe and completes every `WRITE`. -/
def fresh (cfg : Params) : State := { State.reset with cfg := cfg, answers := respondingTransport }

/-- The post-init state of 95_test_vectors.md. -/
def postInit (cfg : Params) : State :=
  { fresh cfg with phase := .ready, rdy := true, addr := 0x27, cf := { d := true, c := false, b := false }, bl := true }

/-- The end state of V12. -/
def degraded : State := { fresh pmEx with phase := .abandoned, addr := 0x20 }

/-- A block with a move of the host waiting. -/
def offered (s : State) (m : Input) : State := { s with inputs := [m] }

/-- A transport that completes one `WRITE` and never the second. -/
def secondHangs : Answers := { probe := true, writes := [.completed 7, .never] }

/-- A block stuck in the second `WRITE` of a PRINTCHAR. -/
def stuck : State := { postInit pmEx with busy := true, trace := [.write 0x27 0x4D, .wait 50, .write 0x27 0x49] }

def reached (o : Host.Outcome State Fault Refusal) (p : State → Bool) : Bool :=
  match o with
  | .next s => p s
  | .fault _ => false
  | .refused _ => false

def stoppedBy (o : Host.Outcome State Fault Refusal) : Option Refusal :=
  match o with
  | .refused r => some r
  | .next _ => none
  | .fault _ => none

def faultedBy (o : Host.Outcome State Fault Refusal) : Option Fault :=
  match o with
  | .fault r => some r
  | .next _ => none
  | .refused _ => none

/-- The bytes that went out as `WRITE`s. -/
def bytesOf (es : List Event) : List Byte :=
  es.filterMap fun
    | .write _ b => some b
    | .probe _ _ => none
    | .wait _ => none

/-- The next state has written exactly these bytes, with this many events in all. -/
def wrote (o : Host.Outcome State Fault Refusal) (bytes : List Byte) (events : Nat) : Bool :=
  reached o fun t => bytesOf t.trace == bytes && t.trace.length == events

/-! ## Well-formedness -/

/-- R6: two pins on one bit. -/
theorem test_pins_overlap_refused :
    { pins := { pmEx.pins with en := 0 }, width := 16, tWrUs := 50 : RawParams }.check = .error .pinsOverlap := by decide

/-- R7: the two ends of 1..40, and one past each. -/
theorem test_width_refused :
    ({ pins := pmEx.pins, width := 0, tWrUs := 50 : RawParams }.check = .error .widthOutOfRange) ∧
      { pins := pmEx.pins, width := 41, tWrUs := 50 : RawParams }.check = .error .widthOutOfRange := by decide

theorem test_width_ends_taken :
    { pins := pmEx.pins, width := 1, tWrUs := 50 : RawParams }.check = .ok (withWidth 1 (by decide)) ∧
      { pins := pmEx.pins, width := 40, tWrUs := 50 : RawParams }.check = .ok (withWidth 40 (by decide)) := by decide

/-- R77: an operand past its range. -/
theorem test_construct_128_ill_formed : (AsmLine.construct 128).wellFormed = false ∧ assemble (.construct 128) = none := by decide
theorem test_setCursor_256_ill_formed : assemble (.setCursor 256 0) = none ∧ assemble (.setCursor 0 256) = none := by decide
theorem test_printChar_256_ill_formed : assemble (.printChar 256) = none := by decide

/-! ## Words (R71 to R78, V10 to V31), bit by bit: OP, A, B -/

theorem test_decode_construct : decode (0b0000_00000000_00100111#20) = .ok (.construct 0x27) := by decide
theorem test_decode_construct_top : decode (0b0000_00000000_01111111#20) = .ok (.construct 0x7F) := by decide
theorem test_decode_clear : decode (0b0001_00000000_00000000#20) = .ok .clear := by decide
theorem test_decode_setCursor : decode (0b0010_00000001_00000011#20) = .ok (.setCursor 3 1) := by decide
theorem test_decode_setCursor_clamped : decode (0b0010_00000101_00010100#20) = .ok (.setCursor 20 5) := by decide
theorem test_decode_backlightOn : decode (0b0011_00000000_00000000#20) = .ok .backlightOn := by decide
theorem test_decode_backlightOff : decode (0b0100_00000000_00000000#20) = .ok .backlightOff := by decide
theorem test_decode_displayOn : decode (0b0101_00000000_00000000#20) = .ok .displayOn := by decide
theorem test_decode_displayOff : decode (0b0110_00000000_00000000#20) = .ok .displayOff := by decide
theorem test_decode_printChar : decode (0b0111_00000000_01000001#20) = .ok (.printChar 0x41) := by decide
theorem test_decode_printChar_top : decode (0b0111_00000000_11111111#20) = .ok (.printChar 0xFF) := by decide

/-- V30 and V31: reserved words. -/
theorem test_decode_reserved :
    [0x00080, 0x00127, 0x10001, 0x30100, 0x70141].map decode = List.replicate 5 (.error .mustBeZero) ∧
      [0x80000, 0xF0000].map decode = List.replicate 2 (.error .opcode) := by decide

/-- The host's numbering of a table word: bit 0 is bit 0 of the word. A word of more than 20 bits is none. -/
theorem test_table_word :
    decodeTableWord 24 0x20103 = some (.setCursor 3 1) ∧ decodeTableWord 20 0x70041 = some (.printChar 0x41) ∧
      decodeTableWord 24 0x80000 = none ∧ decodeTableWord 24 0x127000 = none := by decide

/-- V26. -/
theorem test_print_words : printWords [0x48, 0x69] = [0x70048, 0x70069] ∧ printWords [] = [] := by decide

/-- R77 and the programs P1 to P3. -/
theorem test_assemble_construct : assembleLine "CONSTRUCT 0x27        ; probe" = some [0x00027] := by decide
theorem test_assemble_setCursor : assembleLine "SETCURSOR 20, 5" = some [0x20514] := by decide
theorem test_assemble_printChar : assembleLine "PRINTCHAR '*'" = some [0x7002A] ∧ assembleLine "PRINTCHAR 0x41" = some [0x70041] := by decide
theorem test_assemble_print : assembleLine "PRINT \"Hi\"" = some [0x70048, 0x70069] := by decide
theorem test_assemble_backlightOff : assembleLine "BACKLIGHTOFF" = some [0x40000] ∧ assembleLine "CONSTRUCT 128" = none := by decide

/-! ## Transmit path (V1 to V4) -/

/-- V1. -/
theorem test_pinMap_ex : ∀ v : Nibble, pinMap pmEx.pins v = v.setWidth 8 <<< 4 := by decide

/-- V2. -/
theorem test_pinMap_x :
    (List.range 16).map (fun n => pinMap pmX.pins (BitVec.ofNat 4 n)) =
      [0x00, 0x20, 0x01, 0x21, 0x80, 0xA0, 0x81, 0xA1, 0x04, 0x24, 0x05, 0x25, 0x84, 0xA4, 0x85, 0xA5] := by decide

/-- R6: the free bit of `PM_EX` is 1, of `PM_X` 4. -/
theorem test_pinFree : pinFree pmEx.pins = 1 ∧ pinFree pmX.pins = 4 := by decide

/-- What a part of a request wrote. -/
def ran (r : Run) : List Byte × Nat :=
  match r with
  | .done s => (bytesOf s.trace, s.trace.length)
  | .hung s => (bytesOf s.trace, s.trace.length)

/-- V3, the row of 0x4 as data with the backlight on, under both maps. -/
theorem test_sendNibble :
    ran (sendNibble 0x4 true (postInit pmEx)) = ([0x4D, 0x49], 4) ∧ ran (sendNibble 0x4 true (postInit pmX)) = ([0xCA, 0x8A], 4) := by decide

/-- V3's corner case: `RDY` = 0. -/
theorem test_sendNibble_not_ready : ran (sendNibble 0x4 true degraded) = ([], 0) := by decide

/-- V4, the rows of 0xA5 and 0x28 under both maps. -/
theorem test_sendByte_data :
    ran (sendData 0xA5 ((postInit pmEx).withBl false)) = ([0xA5, 0xA1, 0x55, 0x51], 8) ∧
      ran (sendData 0xA5 ((postInit pmX).withBl false)) = ([0x4D, 0x0D, 0xE8, 0xA8], 8) := by decide
theorem test_sendByte_command :
    ran (sendCommand 0x28 ((postInit pmEx).withBl false)) = ([0x24, 0x20, 0x84, 0x80], 8) ∧
      ran (sendCommand 0x28 ((postInit pmX).withBl false)) = ([0x41, 0x01, 0x44, 0x04], 8) := by decide

/-! ## One request (V10 to V25), two tests each at most -/

/-- V10 and V11: the bytes and the number of events; the end state. -/
theorem test_construct_answered :
    wrote (exec (.construct 0x27) (fresh pmEx))
      [0x34, 0x30, 0x34, 0x30, 0x34, 0x30, 0x24, 0x20, 0x24, 0x20, 0x84, 0x80, 0x04, 0x00, 0x84, 0x80,
       0x04, 0x00, 0x14, 0x10, 0x04, 0x00, 0x64, 0x60, 0x0C, 0x08, 0x8C, 0x88, 0x0C, 0x08, 0xCC, 0xC8] 69 = true ∧
      reached (exec (.construct 0x27) (fresh pmEx)) (fun t => t.phase == .ready && t.rdy && t.addr == 0x27 &&
        t.cf == { d := true, c := false, b := false } && t.bl) = true ∧
    wrote (exec (.construct 0x27) (fresh pmX))
      [0x61, 0x21, 0x61, 0x21, 0x61, 0x21, 0x41, 0x01, 0x41, 0x01, 0x44, 0x04, 0x40, 0x00, 0x44, 0x04,
       0x40, 0x00, 0x60, 0x20, 0x40, 0x00, 0xC1, 0x81, 0x42, 0x02, 0x46, 0x06, 0x42, 0x02, 0xC6, 0x86] 69 = true := by decide

/-- V12: the probe answered 0; V14: a second CONSTRUCT. -/
theorem test_construct_silent_and_twice :
    reached (exec (.construct 0x20) { fresh pmEx with answers := { probe := false, writes := [] } }) (fun t =>
      t.trace == [.probe 0x20 false] && t.phase == .abandoned && t.rdy == false && t.addr == 0x20 && t.bl == false &&
        t.cf == { d := false, c := false, b := false } && t.busy == false) = true ∧
    stoppedBy (exec (.construct 0x27) (postInit pmEx)) = some .alreadyConstructed ∧
      stoppedBy (exec (.construct 0x27) degraded) = some .alreadyConstructed := by decide

/-- V20. -/
theorem test_clear :
    wrote (exec .clear (postInit pmEx)) [0x0C, 0x08, 0x1C, 0x18] 9 = true ∧
      reached (exec .clear (postInit pmEx)) (fun t => t.trace.getLast? == some (.wait 2000)) = true := by decide

/-- V21, the rows (15, 0), (16, 0), (3, 1) and (255, 255). -/
theorem test_setCursor :
    wrote (exec (.setCursor 15 0) (postInit pmEx)) [0x8C, 0x88, 0xFC, 0xF8] 8 = true ∧
      wrote (exec (.setCursor 16 0) (postInit pmEx)) [0x8C, 0x88, 0xFC, 0xF8] 8 = true ∧
      wrote (exec (.setCursor 3 1) (postInit pmEx)) [0xCC, 0xC8, 0x3C, 0x38] 8 = true ∧
      wrote (exec (.setCursor 255 255) (postInit pmEx)) [0xCC, 0xC8, 0xFC, 0xF8] 8 = true := by decide

/-- V22. -/
theorem test_setCursor_widths :
    wrote (exec (.setCursor 100 1) (postInit (withWidth 40 (by decide)))) [0xEC, 0xE8, 0x7C, 0x78] 8 = true ∧
      wrote (exec (.setCursor 5 1) (postInit (withWidth 1 (by decide)))) [0xCC, 0xC8, 0x0C, 0x08] 8 = true := by decide

/-- V23. -/
theorem test_backlightOff :
    wrote (exec .backlightOff (postInit pmEx)) [0x04, 0x00, 0xC4, 0xC0] 8 = true ∧
      reached (exec .backlightOff (postInit pmEx)) (fun t => t.bl == false && t.cf == (postInit pmEx).cf) = true := by decide
theorem test_backlightOn :
    wrote (exec .backlightOn (postInit pmEx)) [0x0C, 0x08, 0xCC, 0xC8] 8 = true ∧
      reached (exec .backlightOn ((postInit pmEx).withBl false)) (fun t => t.bl) = true := by decide

/-- V24. -/
theorem test_displayOff :
    wrote (exec .displayOff (postInit pmEx)) [0x0C, 0x08, 0x8C, 0x88] 8 = true ∧
      reached (exec .displayOff (postInit pmEx)) (fun t => t.cf == { d := false, c := false, b := false } && t.bl) = true := by decide
theorem test_displayOn :
    wrote (exec .displayOn ((postInit pmEx).withCf { d := false, c := false, b := false })) [0x0C, 0x08, 0xCC, 0xC8] 8 = true ∧
      reached (exec .displayOn ((postInit pmEx).withCf { d := false, c := true, b := true })) (fun t =>
        t.cf == { d := true, c := true, b := true }) = true := by decide

/-- V25, the rows 'A' (also S8) and 0xFF; S5: after a BACKLIGHTOFF bit 3 is clear throughout. -/
theorem test_printChar :
    wrote (exec (.printChar 0x41) (postInit pmEx)) [0x4D, 0x49, 0x1D, 0x19] 8 = true ∧
      wrote (exec (.printChar 0xFF) (postInit pmEx)) [0xFD, 0xF9, 0xFD, 0xF9] 8 = true ∧
    wrote (exec (.printChar 0x2A) ((postInit pmEx).withBl false)) [0x25, 0x21, 0xA5, 0xA1] 8 = true := by decide

/-- V30: requests before CONSTRUCT; reserved words come first. -/
theorem test_refused_before_construct :
    stoppedBy (runWord 0x10000 (fresh pmEx)) = some .notConstructed ∧ stoppedBy (runWord 0x70041 (fresh pmEx)) = some .notConstructed ∧
      stoppedBy (runWord 0x00127 (fresh pmEx)) = some .reservedRequest := by decide

/-- V40: degraded mode. -/
theorem test_degraded :
    wrote (exec .clear degraded) [] 0 = true ∧ wrote (exec (.printChar 0x41) degraded) [] 0 = true ∧
      reached (exec .displayOn degraded) (fun t => t.trace.isEmpty && t.cf.d && t.phase == .abandoned) = true := by decide

/-! ## One step -/

/-- The word placed for the fetch is the one that runs (R231). -/
theorem test_step_construct :
    wrote (step ((fresh pmEx).withFetchWord 24 0x00027))
      [0x34, 0x30, 0x34, 0x30, 0x34, 0x30, 0x24, 0x20, 0x24, 0x20, 0x84, 0x80, 0x04, 0x00, 0x84, 0x80,
       0x04, 0x00, 0x14, 0x10, 0x04, 0x00, 0x64, 0x60, 0x0C, 0x08, 0x8C, 0x88, 0x0C, 0x08, 0xCC, 0xC8] 69 = true := by decide
theorem test_step_printChar : wrote (step ((postInit pmEx).withFetchWord 24 0x70041)) [0x4D, 0x49, 0x1D, 0x19] 8 = true := by decide

/-- From the state after reset itself, with its unknown parameters: CONSTRUCT is taken, CLEAR is refused (R231). -/
theorem test_step_from_reset :
    reached (step (State.reset.withFetchWord 24 0x00027)) (fun t => t.phase == .ready) = true ∧
      stoppedBy (step (State.reset.withFetchWord 24 0x10000)) = some .notConstructed := ⟨rfl, rfl⟩

/-- R230: reset in READY, with a word presented alongside (R213). -/
theorem test_step_reset :
    reached (step (offered (postInit pmEx) (.reset (some 0x10000)))) (fun t =>
      t.phase == .unconstructed && t.rdy == false && t.bl == false && t.cf.d == false && t.trace.isEmpty && t.inputs.isEmpty) = true := by decide

/-- R206, R213, R233: a stuck block. -/
theorem test_step_stuck :
    faultedBy (step stuck) = some .transportHang ∧ faultedBy (step (offered stuck (.reset none))) = some .resetWhileBusy ∧
      stoppedBy (step (offered stuck (.request 0x10000 respondingTransport))) = some .requestWhileBusy := by decide

/-- R206: PRINTCHAR 'A' whose second `WRITE` never completes. -/
theorem test_printChar_hangs :
    reached (exec (.printChar 0x41) { postInit pmEx with answers := secondHangs }) (fun t =>
      t.busy && t.trace == [.write 0x27 0x4D, .wait 50, .write 0x27 0x49]) = true := by decide

/-! ## Witnesses: a state and operands that meet the hypotheses of each statement, one for each clause, at the ends of a range -/

/-- A transport that never completes the first `WRITE`. -/
def firstHangs : Answers := { probe := true, writes := [.never] }

/-- A block in `UNCONSTRUCTED` whose probe is not answered. -/
def silent : State := { fresh pmEx with answers := { probe := false, writes := [] } }

/-- A block whose `inputs` hold PRINTCHAR 'A'. -/
def printing (s : State) : State := offered s (.request 0x70041 respondingTransport)

theorem witness_EncodeOfDecodeIsTheWord : decode 0x0007F = .ok (.construct 0x7F) ∧ decode 0x700FF = .ok (.printChar 0xFF) := by decide

theorem witness_AssemblerTakesOperandsInRange :
    (assemble (.construct 127)).isSome = true ∧ (assemble (.setCursor 255 255)).isSome = true ∧
      (assemble (.printChar 255)).isSome = true ∧ (assemble (.construct 0)).isSome = true := by decide

theorem witness_PinMapUsesOnePinPerSetBit : pmEx.pins.Distinct ∧ pmX.pins.Distinct ∧ pinMap pmX.pins 0xF = pinMap pmX.pins 0xF := by decide

theorem witness_ExpanderByteHasTheNamedBits :
    pmX.pins.Distinct ∧ nibbleByte pmX.pins 0xF true true ∈
      [nibbleByte pmX.pins 0xF true true ||| maskEn pmX.pins, nibbleByte pmX.pins 0xF true true] := by decide

theorem witness_SendNibbleIsOneEnablePulse :
    ((postInit pmEx).rdy = true ∧ TransportCompletes (postInit pmEx)) ∧ degraded.rdy = false := by decide

theorem witness_SendNibbleHangsInTheUnansweredWrite :
    (postInit pmEx).rdy = true ∧ firstHangs.writes = .never :: [] ∧ secondHangs.writes = .completed 7 :: .never :: [] := by decide

theorem witness_SendByteSendsHighNibbleFirst :
    ((postInit pmX).rdy = true ∧ TransportCompletes (postInit pmX)) ∧ degraded.rdy = false := by decide

theorem witness_ConstructRunsTheInitSequence :
    ((fresh pmEx).phase = .unconstructed ∧ (fresh pmEx).answers.probe = true ∧ TransportCompletes (fresh pmEx)) ∧
      (silent.phase = .unconstructed ∧ silent.answers.probe = false) ∧ degraded.phase ≠ .unconstructed := by decide

/-- Stuck in the first write and in the last. -/
theorem witness_ConstructHangsInTheUnansweredWrite :
    (fresh pmEx).phase = .unconstructed ∧
      (firstHangs.probe = true ∧ firstHangs.writes = [] ++ .never :: [] ∧ WriteAnswer.never ∉ ([] : List WriteAnswer)) ∧
      WriteAnswer.never ∉ List.replicate 31 (WriteAnswer.completed 0) ∧ (List.replicate 31 (WriteAnswer.completed 0)).length < 32 := by decide

/-- The hypotheses of the display requests in `READY` and in `ABANDONED`, and of their refusal: ClearSendsClearAndSettles,
SetCursorSendsTheClampedAddress, BacklightRequestsSendTheCarrier, DisplayRequestsSendTheCombinedFlags and PrintCharSendsItsByteAsData. -/
theorem witness_display_requests :
    ((postInit pmEx).phase = .ready ∧ TransportCompletes (postInit pmEx)) ∧ (degraded.phase = .abandoned ∧ TransportCompletes degraded) ∧
      ¬((fresh pmEx).phase = .ready ∨ (fresh pmEx).phase = .abandoned) := by decide

theorem witness_DisplayRequestsAreIdempotentOnFlags :
    ((postInit pmEx).phase = .ready ∨ (postInit pmEx).phase = .abandoned) ∧ (postInit pmEx).rdy = true ∧
      TransportCompletes (postInit pmEx) := by decide

theorem witness_DisplayRequestEventCounts :
    isConstruct .clear = false ∧ isConstruct (.printChar 0) = false ∧ (postInit pmX).rdy = true ∧
      ((postInit pmX).phase = .ready ∨ (postInit pmX).phase = .abandoned) ∧ TransportCompletes (postInit pmX) := by decide

/-- The three forms, in `READY`, in degraded mode, and stuck. -/
theorem witness_TransmittingRequestsKeepTheState :
    (∃ t, exec .clear (postInit pmEx) = .next t) ∧ (∃ t, exec (.setCursor 255 255) degraded = .next t) ∧
      ∃ t, exec (.printChar 0) { postInit pmEx with answers := firstHangs } = .next t ∧ t.busy = true :=
  ⟨⟨_, rfl⟩, ⟨_, rfl⟩, ⟨_, rfl, rfl⟩⟩

theorem witness_BacklightRequestsKeepTheRest :
    (∃ t, exec (if true then .backlightOn else .backlightOff) (postInit pmEx) = .next t) ∧
      ∃ t, exec (if false then .backlightOn else .backlightOff) degraded = .next t := ⟨⟨_, rfl⟩, ⟨_, rfl⟩⟩

theorem witness_DisplayRequestsKeepTheRest :
    (∃ t, exec (if true then .displayOn else .displayOff) (postInit pmEx) = .next t) ∧
      ∃ t, exec (if false then .displayOn else .displayOff) degraded = .next t := ⟨⟨_, rfl⟩, ⟨_, rfl⟩⟩

theorem witness_ConstructKeepsTheRest :
    (∃ t, exec (.construct 0x7F) (fresh pmEx) = .next t) ∧ (∃ t, exec (.construct 0) silent = .next t) ∧
      ∃ t, exec (.construct 0x27) { fresh pmEx with answers := firstHangs } = .next t ∧ t.busy = true :=
  ⟨⟨_, rfl⟩, ⟨_, rfl⟩, ⟨_, rfl, rfl⟩⟩

theorem witness_StepKeepsTheParameters : ∃ t, step (printing (postInit pmX)) = .next t := ⟨_, rfl⟩

theorem witness_RequestsAreRefusedExactlyWhenIllegal :
    decode 0x10001 = .error .mustBeZero ∧ decode 0x10000 = .ok .clear ∧ legal .clear .abandoned = true ∧
      legal .clear .cfgClear = false ∧ legal (.construct 0) .unconstructed = true ∧ legal (.construct 0) .ready = false := by decide

theorem witness_ReservedWordsAreRefusedInEveryPhase :
    degraded.busy = false ∧ (offered degraded (.request 0xF0000 firstHangs)).inputs = .request 0xF0000 firstHangs :: [] ∧
      decode 0xF0000 = .error .opcode := by decide

theorem witness_BusyBlockHasNoNextState :
    stuck.busy = true ∧ stuck.inputs = [] ∧ (printing stuck).inputs = .request 0x70041 respondingTransport :: [] ∧
      (offered stuck (.reset none)).inputs = .reset none :: [] := by decide

/-- Stuck in the first write and in the fourth. -/
theorem witness_DisplayRequestsHangInTheUnansweredWrite :
    isConstruct .clear = false ∧ ((postInit pmEx).phase = .ready ∨ (postInit pmEx).phase = .abandoned) ∧ (postInit pmEx).rdy = true ∧
      (firstHangs.writes = [] ++ .never :: [] ∧ WriteAnswer.never ∉ ([] : List WriteAnswer) ∧ ([] : List WriteAnswer).length < 4) ∧
      WriteAnswer.never ∉ List.replicate 3 (WriteAnswer.completed 0) ∧ (List.replicate 3 (WriteAnswer.completed 0)).length < 4 := by decide

theorem witness_RequestsStayBusyOnlyInAnUnansweredWrite :
    (∃ t, exec (.printChar 0) (postInit pmEx) = .next t ∧ TransportCompletes (postInit pmEx)) ∧
      ∃ t, exec (.printChar 0) { postInit pmEx with answers := secondHangs } = .next t ∧ t.busy = true :=
  ⟨⟨_, rfl, by decide⟩, ⟨_, rfl, rfl⟩⟩

theorem witness_DegradedRequestsEmitNothing :
    isConstruct .displayOn = false ∧ degraded.phase = .abandoned ∧ degraded.rdy = false := by decide

theorem witness_DegradedModeLastsUntilReset :
    (printing degraded).phase = .abandoned ∧ (printing degraded).rdy = false ∧ (∀ m ∈ (printing degraded).inputs, m.isReset = false) ∧
      ∃ t, core.run 3 (printing degraded) = .next t := ⟨rfl, rfl, by decide, _, rfl⟩

/-- The two machines of the statement differ: a status of 7 and a status of 0. -/
theorem witness_WriteStatusesAreIgnored :
    (offered (postInit pmEx) (.request 0x70041 { probe := true, writes := [.completed 7] })).forget ≠
      offered (postInit pmEx) (.request 0x70041 { probe := true, writes := [.completed 7] }) := by decide

/-- `RDY` rises; `RDY` falls; `RDY` stays 0. -/
theorem witness_ReadyRisesOnlyByAnAnsweredProbe :
    (∃ t, step (offered (fresh pmEx) (.request 0x00027 respondingTransport)) = .next t ∧ t.rdy = true) ∧
      (∃ t, step (offered (postInit pmEx) (.reset none)) = .next t ∧ t.rdy = false) ∧
      ∃ t, step (printing degraded) = .next t ∧ t.rdy = false := ⟨⟨_, rfl, rfl⟩, ⟨_, rfl, rfl⟩, ⟨_, rfl, rfl⟩⟩

theorem witness_PhaseOnlyMovesForward :
    ∃ t, step (offered (fresh pmEx) (.request 0x00027 respondingTransport)) = .next t ∧ t.phase = .ready := ⟨_, rfl, rfl⟩

theorem witness_ProbeAtMostOncePerReset :
    (∀ m ∈ (offered (fresh pmEx) (.request 0x00027 respondingTransport)).inputs, m.isReset = false) ∧
      (∃ t, core.run 2 (offered (fresh pmEx) (.request 0x00027 respondingTransport)) = .next t) ∧
      (printing (postInit pmEx)).phase ≠ .unconstructed ∧ ∃ t, core.run 2 (printing (postInit pmEx)) = .next t :=
  ⟨by decide, ⟨_, rfl⟩, by decide, ⟨_, rfl⟩⟩

theorem witness_WritesGoToAddrWithTheFreeBitClear : ∃ t, exec (.construct 0x27) (fresh pmX) = .next t := ⟨_, rfl⟩

theorem witness_BacklightRidesOnEveryWrite : isConstruct .backlightOff = false ∧ ∃ t, exec .backlightOff (postInit pmX) = .next t :=
  ⟨rfl, _, rfl⟩

theorem witness_BacklightStaysOffUntilTurnedOn :
    let s := printing ((postInit pmEx).withBl false)
    s.bl = false ∧ s.phase ≠ .unconstructed ∧ (∀ m ∈ s.inputs, m.isReset = false) ∧
      (∀ w a, .request w a ∈ s.inputs → decode w ≠ .ok .backlightOn) ∧ ∃ t, core.run 2 s = .next t := by
  refine ⟨rfl, by decide, by decide, ?_, _, rfl⟩
  intro w a h
  obtain ⟨rfl, -⟩ : w = 0x70041 ∧ a = respondingTransport := by
    simpa [printing, offered] using h
  decide

theorem witness_StepRunsTheDecodedRequest :
    (printing degraded).busy = false ∧ (printing degraded).inputs = .request 0x70041 respondingTransport :: [] ∧
      decode 0x70041 = .ok (.printChar 0x41) := by decide

theorem witness_ResetPutsEveryElementAtItsValue :
    (postInit pmEx).busy = false ∧ (offered (postInit pmEx) (.reset none)).inputs = .reset none :: [] ∧
      (offered (postInit pmEx) (.reset (some 0x10000))).inputs = .reset (some 0x10000) :: [] := by decide

theorem witness_BlockWaitsForTheHost : State.reset.busy = false ∧ State.reset.inputs = [] := ⟨rfl, rfl⟩

/-- A well-formed configuration at each end of the width; its pins alone wrong; its width alone wrong, at each end; both wrong. -/
theorem witness_IllFormedConfigurationsAreRefused :
    (pmX.pins.Distinct ∧ WidthInRange 1 ∧ WidthInRange 40) ∧ ¬{ pmX.pins with en := 1 : PinAssignment }.Distinct ∧
      (¬WidthInRange 0 ∧ ¬WidthInRange 41) ∧ ¬({ pmX.pins with en := 1 : PinAssignment }.Distinct ∧ WidthInRange 0) := by decide

/-- The invariants at work: between requests, stuck, and over a step. -/
theorem witness_StepKeepsTheInvariant : Inv (printing (postInit pmEx)) ∧ Inv stuck ∧ ∃ t, step (printing (postInit pmEx)) = .next t :=
  ⟨⟨rfl, fun _ => rfl, by decide, by decide, by decide⟩, ⟨rfl, by decide, fun _ => rfl, by decide, by decide⟩, _, rfl⟩

theorem witness_StepKeepsTheWriteSpacing :
    TracePaced (printing (postInit pmEx)) ∧ TracePaced stuck ∧ ∃ t, step (printing (postInit pmEx)) = .next t :=
  ⟨rfl, ⟨[.write 0x27 0x4D, .wait 50], 0x27, 0x49, rfl, rfl⟩, _, rfl⟩

/-- For CONSTRUCT and for a display request: LcdLatchesTheNibblesOfTheRequest and ExpanderRestsWithEnableLow. -/
theorem witness_LcdLatchesTheNibblesOfTheRequest :
    (legal (.construct 0x27) (fresh pmX).phase = true ∧ TransportCompletes (fresh pmX) ∧ (fresh pmX).answers.probe = true) ∧
      legal .clear (postInit pmX).phase = true ∧ TransportCompletes (postInit pmX) ∧ (postInit pmX).rdy = true := by decide

theorem witness_PrintIsItsCharactersInOrder :
    let s := { postInit pmEx with inputs := presentations (printWords [0x48, 0x69]) respondingTransport ++ [] }
    (s.phase = .ready ∨ s.phase = .abandoned) ∧ s.busy = false ∧ WriteAnswer.never ∉ respondingTransport.writes ∧
      s.inputs = presentations (printWords [0x48, 0x69]) respondingTransport ++ [] := by decide

end Sys2Proof.Tests
end

/-! PROOFS. `RDY` over every step, and the reset state (spec/10_state.md R22, R32). -/

namespace Sys2Proof.Machine

/-! ## What a request leaves of `RDY` -/

@[simp] theorem requestUpdate_rdy (i : Instr) (s : State) : (requestUpdate i s).rdy = s.rdy := by cases i <;> rfl

@[simp] theorem requestUpdate_trace (i : Instr) (s : State) : (requestUpdate i s).trace = s.trace := by cases i <;> rfl

/-- R203: a byte sent with `RDY` = 0 is no event. -/
theorem State.byteEvents_of_not_rdy {s : State} (h : s.rdy = false) (v : Byte) (isData : Bool) : s.byteEvents v isData = [] := by
  simp [State.byteEvents, h]

/-- R203: every display request is silent with `RDY` = 0. -/
theorem requestEvents_of_not_rdy (i : Instr) {s : State} (h : s.rdy = false) : requestEvents i s = [] := by
  cases i <;> simp [requestEvents, State.byteEvents_of_not_rdy h, State.waitEvents, h]

/-- A display request keeps `RDY`, and with `RDY` = 0 emits no event. -/
theorem exec_display_rdy {i : Instr} {s t : State} (hi : isConstruct i = false) (h : exec i s = .next t) :
    t.rdy = s.rdy ∧ ∃ es, t.trace = s.trace ++ es ∧ (t.rdy = false → es = []) := by
  obtain ⟨-, rfl | ⟨pre, a, b, post, ans, hes, -, rfl⟩⟩ := exec_display_next i s t hi h
  · exact ⟨by simp, requestEvents i (requestUpdate i s), by simp, fun hr => requestEvents_of_not_rdy i (by simpa using hr)⟩
  · refine ⟨by simp, pre ++ [.write a b], by simp, fun hr => ?_⟩
    rw [requestEvents_of_not_rdy i (by simpa using hr)] at hes
    simp at hes

/-- CONSTRUCT either raises `RDY` after a probe answer of 1 in `UNCONSTRUCTED`, or keeps `RDY` and emits the probe alone. -/
theorem exec_construct_rdy {addr : Addr7} {s t : State} (h : exec (.construct addr) s = .next t) :
    (t.rdy = true ∧ s.phase = .unconstructed ∧ s.answers.probe = true ∧ ∃ es, t.trace = s.trace ++ es) ∨
      (t.rdy = s.rdy ∧ t.trace = s.trace ++ [.probe addr false]) := by
  obtain ⟨hp, ⟨-, rfl⟩ | ⟨hr, rfl⟩ | ⟨hr, hin, -, pre, a, b, post, -, htr⟩⟩ := exec_construct_next addr s t h
  · exact .inr ⟨rfl, rfl⟩
  · exact .inl ⟨rfl, hp, hr, _, rfl⟩
  · exact .inl ⟨hin.rdy, hp, hr, _, htr⟩

/-- R22 for one request: `RDY` is kept or raised by an answered CONSTRUCT, and no `WRITE` is emitted where it stays 0. -/
theorem exec_next_rdy {i : Instr} {s t : State} (h : exec i s = .next t) :
    (t.rdy = s.rdy ∨ t.rdy = true ∧ s.phase = .unconstructed ∧ s.answers.probe = true ∧ ∃ addr, i = .construct addr) ∧
      ∃ es, t.trace = s.trace ++ es ∧ (t.rdy = false → es.countP Event.isWrite = 0) := by
  cases hi : isConstruct i with
  | false =>
    obtain ⟨hrdy, es, htr, hnil⟩ := exec_display_rdy hi h
    exact ⟨.inl hrdy, es, htr, fun hr => by rw [hnil hr, List.countP_nil]⟩
  | true =>
    obtain ⟨addr, rfl⟩ : ∃ addr, i = .construct addr := by cases i <;> simp [isConstruct] at hi ⊢
    rcases exec_construct_rdy h with ⟨hrdy, hp, hpr, es, htr⟩ | ⟨hrdy, htr⟩
    · exact ⟨.inr ⟨hrdy, hp, hpr, addr, rfl⟩, es, htr, by simp [hrdy]⟩
    · exact ⟨.inl hrdy, _, htr, fun _ => rfl⟩

/-- Settles O38, by the three things a step can do: wait, take a reset, or run a request. -/
theorem readyRisesOnlyByAnAnsweredProbe : Obligations.ReadyRisesOnlyByAnAnsweredProbe := by
  refine ⟨State.reset_rdy, fun s t h => ?_⟩
  obtain ⟨-, ⟨-, rfl⟩ | ⟨w, rest, hin, rfl⟩ | ⟨w, a, rest, i, hin, hd, hx⟩⟩ := step_next s t h
  case inl => exact ⟨fun h0 h1 => by simp [h0] at h1, fun h1 h0 => by simp [h1] at h0, [], by simp, fun _ => rfl⟩
  case inr.inl => exact ⟨by simp, fun _ _ => ⟨w, rest, hin⟩, [], by simp, fun _ => rfl⟩
  case inr.inr =>
    obtain ⟨hkept | ⟨hrdy, hp, hpr, addr, rfl⟩, hes⟩ := exec_next_rdy hx
    · exact ⟨fun h0 h1 => by simp [hkept, h0] at h1, fun h1 h0 => by simp [hkept, h1] at h0, hes⟩
    · exact ⟨fun _ _ => ⟨w, a, rest, addr, hin, hd, hp, hpr⟩, by simp [hrdy], hes⟩

/-- Settles O46, field by field from the reset state; `busy_o` and `ready_o` are read off `busy` and `RDY`. -/
theorem resetStateHasTheTabulatedValues : Obligations.ResetStateHasTheTabulatedValues :=
  ⟨State.reset_phase, State.reset_rdy, State.reset_cf, State.reset_bl, State.reset_busy, State.reset_rdy, State.reset_busy,
    congrArg Params.width State.reset_cfg⟩

end Sys2Proof.Machine

/-! PROOFS. What an observer at the expander's pins sees of one request: the nibbles that the LCD latches, and the level at which the pins rest
(spec/20_memory.md R51, R60, R61). -/

namespace Sys2Proof.Machine

/-! ## What waits, a pulse and a byte show at the pins -/

@[simp] theorem latches_waits (p : PinAssignment) (en : Bool) (ts : List Nat) : latches p en (ts.map .wait) = [] := by
  induction ts with
  | nil => rfl
  | cons t ts ih => exact ih

@[simp] theorem expanderPort_waits (ts : List Nat) : expanderPort (ts.map .wait) = none := by
  induction ts with
  | nil => rfl
  | cons t ts ih => exact ih

/-- The pulse of a nibble latches that nibble (R60, R103). -/
theorem latches_nibble_append (cfg : Params) (a : Addr7) (v : Nibble) (isData bl : Bool) (es : List Event) :
    latches cfg.pins false (pulseEvents cfg a (nibbleByte cfg.pins v isData bl) ++ es) =
      (isData, v) :: latches cfg.pins false es := by
  have hd := cfg.pinsDistinct
  rw [latches_pulse_append _ _ _ _ (nibbleByte_en _ hd _ _ _), nibbleByte_rs _ hd, dataPins_nibbleByte _ hd]

/-- A byte latches its two nibbles and nothing more (R106). -/
theorem latches_byte (cfg : Params) (a : Addr7) (bl : Bool) (v : Byte) (isData : Bool) :
    latches cfg.pins false (byteEvents cfg a bl v isData) = nibblesOf (isData, v) := by
  simpa [latches] using latches_byte_append cfg a bl v isData []

/-- A byte leaves its low nibble at the pins (R51, R106). -/
@[simp] theorem expanderPort_byte (cfg : Params) (a : Addr7) (bl : Bool) (v : Byte) (isData : Bool) :
    expanderPort (byteEvents cfg a bl v isData) = some (nibbleByte cfg.pins (lowNibble v) isData bl) := rfl

/-! ## Display requests -/

theorem legal_display {i : Instr} (hi : isConstruct i = false) (p : Phase) : legal i p = displayLegal p := by
  cases i with
  | construct addr => cases hi
  | _ => rfl

/-- With `RDY` = 1 a display request sends one byte, the one whose nibbles the LCD is to latch, and then only waits (R151 to R165). -/
theorem requestEvents_eq_byte_waits {i : Instr} {s : State} (hi : isConstruct i = false) (hr : s.rdy = true) :
    ∃ (isData : Bool) (v : Byte) (ts : List Nat), lcdNibbles i s = nibblesOf (isData, v) ∧
      requestEvents i (requestUpdate i s) = byteEvents s.cfg s.addr (requestUpdate i s).bl v isData ++ ts.map .wait := by
  have oneByte (u : State) (v : Byte) (isData : Bool) (hu : u.rdy = true) :
      u.byteEvents v isData = byteEvents u.cfg u.addr u.bl v isData ++ [].map .wait := by
    rw [byteEvents_ready u v isData hu, List.map_nil, List.append_nil]
  cases i with
  | construct addr => cases hi
  | clear => exact ⟨false, cmdClear, [delayClear], rfl, by simp [requestEvents, requestUpdate, byteEvents_ready, State.waitEvents, hr]⟩
  | setCursor x y => exact ⟨false, _, [], rfl, oneByte s _ _ hr⟩
  | backlightOn => exact ⟨false, _, [], rfl, oneByte (s.withBl true) _ _ hr⟩
  | backlightOff => exact ⟨false, _, [], rfl, oneByte (s.withBl false) _ _ hr⟩
  | displayOn => exact ⟨false, _, [], rfl, oneByte (s.withCf (withDisplay true s.cf)) _ _ hr⟩
  | displayOff => exact ⟨false, _, [], rfl, oneByte (s.withCf (withDisplay false s.cf)) _ _ hr⟩
  | printChar c => exact ⟨true, c, [], rfl, oneByte s _ _ hr⟩

/-- A display request latches the nibbles that are named for it. -/
theorem latches_requestEvents {i : Instr} {s : State} (hi : isConstruct i = false) (hr : s.rdy = true) :
    latches s.cfg.pins false (requestEvents i (requestUpdate i s)) = lcdNibbles i s := by
  obtain ⟨isData, v, ts, hn, he⟩ := requestEvents_eq_byte_waits hi hr
  rw [hn, he, latches_byte_append, latches_waits, List.append_nil]

/-- After a display request the pins hold a nibble's byte with the backlight as the request sets it. -/
theorem expanderPort_requestEvents {i : Instr} {s : State} (hi : isConstruct i = false) (hr : s.rdy = true) :
    ∃ v isData, expanderPort (requestEvents i (requestUpdate i s)) =
      some (nibbleByte s.cfg.pins v isData (requestUpdate i s).bl) := by
  obtain ⟨isData, v, ts, -, he⟩ := requestEvents_eq_byte_waits hi hr
  exact ⟨lowNibble v, isData, by rw [he, expanderPort_append, expanderPort_waits, expanderPort_byte]; rfl⟩

/-! ## CONSTRUCT -/

theorem eq_construct {i : Instr} (hi : isConstruct i = true) : ∃ addr, i = .construct addr := by
  cases i with
  | construct addr => exact ⟨addr, rfl⟩
  | _ => cases hi

/-- The init sequence latches CONSTRUCT's four lone nibbles and six command bytes: its waits latch nothing (R86, R120). -/
theorem latches_initEvents (addr : Addr7) (s : State) :
    latches s.cfg.pins false (initEvents s.cfg addr s.cf s.bl) = lcdNibbles (.construct addr) s := by
  simp only [initEvents, List.append_assoc, List.cons_append, List.nil_append, latches, latches_nibble_append, latches_byte_append,
    latches_byte]
  rfl

/-- The init sequence ends with a byte that carries the backlight on (R132, R133). -/
theorem expanderPort_initEvents (cfg : Params) (addr : Addr7) (cf : ControlFlags) (bl : Bool) :
    expanderPort (initEvents cfg addr cf bl) =
      some (nibbleByte cfg.pins (lowNibble (dispCtlByte (withDisplay true cf))) false true) := by
  rw [initEvents, expanderPort_append, expanderPort_byte]
  rfl

/-! ## Every request that writes -/

/-- Settles O52, from what the events of a display request and of CONSTRUCT latch. -/
theorem lcdLatchesTheNibblesOfTheRequest : Obligations.LcdLatchesTheNibblesOfTheRequest := by
  intro i s hl ht hprobe hrdy
  cases hi : isConstruct i with
  | false =>
    rw [legal_display hi] at hl
    exact ⟨_, _, exec_display_completes i s hi hl ht, by simp, latches_requestEvents hi (hrdy hi)⟩
  | true =>
    obtain ⟨addr, rfl⟩ := eq_construct hi
    exact ⟨_, _, exec_construct_completes addr s (of_decide_eq_true hl) (hprobe hi) ht, rfl, latches_initEvents addr s⟩

/-- Settles O53: the byte at the pins is a nibble's byte, whose enable bit is clear and whose backlight bit is `BL`. -/
theorem expanderRestsWithEnableLow : Obligations.ExpanderRestsWithEnableLow := by
  intro i s hl ht hprobe hrdy
  have hd := s.cfg.pinsDistinct
  cases hi : isConstruct i with
  | false =>
    rw [legal_display hi] at hl
    obtain ⟨v, isData, hport⟩ := expanderPort_requestEvents hi (hrdy hi)
    exact ⟨_, _, _, exec_display_completes i s hi hl ht, by simp, hport, nibbleByte_en _ hd _ _ _, nibbleByte_bl _ hd _ _ _⟩
  | true =>
    obtain ⟨addr, rfl⟩ := eq_construct hi
    exact ⟨_, _, _, exec_construct_completes addr s (of_decide_eq_true hl) (hprobe hi) ht, rfl, expanderPort_initEvents _ _ _ _,
      nibbleByte_en _ hd _ _ _, nibbleByte_bl _ hd _ _ _⟩

end Sys2Proof.Machine

/-! PROOFS. The request words and the expander byte (spec/30_encoding.md): the decoder against the opcode map, the words of a text, and the
byte's eight bits. -/

namespace Sys2Proof

/-! ## A word by its fields (R71) -/

@[simp] theorem opField_and (w m : ReqWord) : opField (w &&& m) = opField w &&& opField m := BitVec.extractLsb'_and

@[simp] theorem aField_and (w m : ReqWord) : aField (w &&& m) = aField w &&& aField m := BitVec.extractLsb'_and

@[simp] theorem bField_and (w m : ReqWord) : bField (w &&& m) = bField w &&& bField m := BitVec.extractLsb'_and

theorem reqWord_ext_iff {w w' : ReqWord} : w = w' ↔ opField w = opField w' ∧ aField w = aField w' ∧ bField w = bField w' := by
  refine ⟨fun h => h ▸ ⟨rfl, rfl, rfl⟩, fun ⟨hop, ha, hb⟩ => ?_⟩
  rw [← requestWord_fields w, ← requestWord_fields w', hop, ha, hb]

/-! ## Decoder and encoder (R72 to R75) -/

/-- CONSTRUCT's byte is its seven address bits when its bit 7 is clear (R73). -/
theorem setWidth_addr_of_bit7 : ∀ b : Byte, b.getLsbD 7 = false → (b.setWidth 7).setWidth 8 = b := by decide

theorem decode_encode (i : Instr) : decode (encode i) = .ok i := by
  cases i with
  | construct addr => simp [decode, encode]
  | setCursor x y => simp [decode, encode]
  | printChar c => simp [decode, encode]
  | _ => simp [decode, encode, decodePlain]

/-- An operand-less request is decoded from the word of its `OP` field and nothing else. -/
theorem encode_of_decodePlain {i j : Instr} {op : BitVec 4} {a b : Byte} (hi : encode i = requestWord op 0 0)
    (h : decodePlain i a b = .ok j) : encode j = requestWord op a b := by
  unfold decodePlain at h
  split at h
  case isTrue hab =>
    obtain ⟨rfl, rfl⟩ := hab
    cases h
    exact hi
  case isFalse => cases h

theorem encode_of_decode {w : ReqWord} {i : Instr} (h : decode w = .ok i) : encode i = w := by
  have op_eq (op : BitVec 4) (hop : (opField w).toNat = op.toNat) : opField w = op := BitVec.eq_of_toNat_eq hop
  rw [← requestWord_fields w]
  unfold decode at h
  dsimp only at h
  split at h
  next hop =>
    rw [op_eq 0 hop]
    split at h
    case isTrue hab =>
      cases h
      rw [hab.1, encode, setWidth_addr_of_bit7 _ hab.2]
    case isFalse => cases h
  next hop => exact op_eq 1 hop ▸ encode_of_decodePlain rfl h
  next hop =>
    rw [op_eq 2 hop]
    cases h
    rfl
  next hop => exact op_eq 3 hop ▸ encode_of_decodePlain rfl h
  next hop => exact op_eq 4 hop ▸ encode_of_decodePlain rfl h
  next hop => exact op_eq 5 hop ▸ encode_of_decodePlain rfl h
  next hop => exact op_eq 6 hop ▸ encode_of_decodePlain rfl h
  next hop =>
    rw [op_eq 7 hop]
    split at h
    case isTrue ha =>
      cases h
      rw [ha, encode]
    case isFalse => cases h
  next => cases h

theorem decode_eq_ok_iff {w : ReqWord} {i : Instr} : decode w = .ok i ↔ encode i = w :=
  ⟨encode_of_decode, fun h => h ▸ decode_encode i⟩

end Sys2Proof

namespace Sys2Proof.Machine

/-! ## The opcode map (R72, R73) -/

/-- The encoder's word of a request is a word of its row. -/
theorem encode_and_mask (i : Instr) : encode i &&& (opcodeRow i).mask = (opcodeRow i).value := by
  cases i with
  | construct addr => exact Laws.EncodedInItsRow.construct addr
  | clear => exact Laws.EncodedInItsRow.clear
  | setCursor x y => exact Laws.EncodedInItsRow.setCursor x y
  | backlightOn => exact Laws.EncodedInItsRow.backlightOn
  | backlightOff => exact Laws.EncodedInItsRow.backlightOff
  | displayOn => exact Laws.EncodedInItsRow.displayOn
  | displayOff => exact Laws.EncodedInItsRow.displayOff
  | printChar c => exact Laws.EncodedInItsRow.printChar c

theorem selects_iff (i : Instr) (w : ReqWord) :
    (opcodeRow i).selects w = true ↔ encode i &&& (opcodeRow i).mask = w &&& (opcodeRow i).mask := by
  rw [encode_and_mask, OpcodeRow.selects, beq_iff_eq, eq_comm]

theorem and_255 (b : Byte) : b &&& 255#8 = b := BitVec.and_allOnes

/-- Seven of the eight bits of CONSTRUCT's byte are its address (R73). -/
theorem setWidth_addr_and_127_eq_iff (addr : Addr7) (b : Byte) : addr.setWidth 8 &&& 127#8 = b &&& 127#8 ↔ addr = b.setWidth 7 := by
  have h127 : ∀ c : Byte, c &&& 127#8 = (c.setWidth 7).setWidth 8 := by decide
  rw [h127, h127]
  exact ⟨fun h => by simpa using congrArg (BitVec.setWidth 7) h, fun h => by simp [h]⟩

/-- The operands of R73 are the bits that the row's mask leaves open. -/
theorem operandsAre_iff (i : Instr) (w : ReqWord) :
    operandsAre i w ↔ encode i &&& ~~~(opcodeRow i).mask = w &&& ~~~(opcodeRow i).mask := by
  cases i with
  | construct addr =>
    have hopen : ~~~(opcodeRow (.construct addr)).mask = requestWord 0 0 0x7F := by simp only [opcodeRow]; decide
    have hB : w.extractLsb' 0 7 = (bField w).setWidth 7 := by
      ext k hk
      simp [bField, show k < 8 by omega]
    simp [hopen, hB, reqWord_ext_iff, encode, operandsAre, setWidth_addr_and_127_eq_iff]
  | setCursor x y =>
    have hopen : ~~~(opcodeRow (.setCursor x y)).mask = requestWord 0 0xFF 0xFF := by simp only [opcodeRow]; decide
    change x = bField w ∧ y = aField w ↔ _
    simp [hopen, reqWord_ext_iff, encode, and_255, and_comm]
  | printChar c =>
    have hopen : ~~~(opcodeRow (.printChar c)).mask = requestWord 0 0 0xFF := by simp only [opcodeRow]; decide
    change c = bField w ↔ _
    simp [hopen, reqWord_ext_iff, encode, and_255]
  | _ => simp [operandsAre, opcodeRow, encode]

theorem eq_iff_and_mask (m w w' : ReqWord) : w = w' ↔ w &&& m = w' &&& m ∧ w &&& ~~~m = w' &&& ~~~m := by
  refine ⟨fun h => h ▸ ⟨rfl, rfl⟩, fun ⟨hm, hn⟩ => ?_⟩
  have glue (u : ReqWord) : u &&& m ||| u &&& ~~~m = u := by
    ext k
    simp [← Bool.and_or_distrib_left]
  rw [← glue w, hm, hn, glue]

theorem encode_eq_iff (i : Instr) (w : ReqWord) : encode i = w ↔ (opcodeRow i).selects w = true ∧ operandsAre i w := by
  rw [eq_iff_and_mask (opcodeRow i).mask, selects_iff, operandsAre_iff]

/-- R75 for the words that are not reserved. -/
theorem decode_eq_ok_iff_row (w : ReqWord) (i : Instr) : decode w = .ok i ↔ (opcodeRow i).selects w = true ∧ operandsAre i w :=
  decode_eq_ok_iff.trans (encode_eq_iff i w)

theorem opcodeRow_mem (i : Instr) : opcodeRow i ∈ opcodeRows := by
  cases i <;> simp [opcodeRows, opcodeRow]

/-- A row and a word name one request: the operands are read off the word (R73). -/
theorem exists_request_of_row {r : OpcodeRow} (hr : r ∈ opcodeRows) (w : ReqWord) : ∃ i, opcodeRow i = r ∧ operandsAre i w := by
  simp only [opcodeRows, List.mem_cons, List.not_mem_nil, or_false] at hr
  rcases hr with rfl | rfl | rfl | rfl | rfl | rfl | rfl | rfl
  · exact ⟨.construct (w.extractLsb' 0 7), rfl, rfl⟩
  · exact ⟨.clear, rfl, trivial⟩
  · exact ⟨.setCursor (w.extractLsb' 0 8) (w.extractLsb' 8 8), rfl, rfl, rfl⟩
  · exact ⟨.backlightOn, rfl, trivial⟩
  · exact ⟨.backlightOff, rfl, trivial⟩
  · exact ⟨.displayOn, rfl, trivial⟩
  · exact ⟨.displayOff, rfl, trivial⟩
  · exact ⟨.printChar (w.extractLsb' 0 8), rfl, rfl⟩

/-- R75 for the reserved words. -/
theorem decode_error_iff_no_row (w : ReqWord) : (∃ e, decode w = .error e) ↔ ∀ r ∈ opcodeRows, r.selects w = false := by
  constructor
  · rintro ⟨e, he⟩ r hr
    obtain ⟨i, rfl, hops⟩ := exists_request_of_row hr w
    by_contra hsel
    rw [(decode_eq_ok_iff_row w i).2 ⟨by simpa using hsel, hops⟩] at he
    cases he
  · intro hnone
    cases hd : decode w with
    | error e => exact ⟨e, rfl⟩
    | ok i =>
      obtain ⟨hsel, -⟩ := (decode_eq_ok_iff_row w i).1 hd
      simp [hnone _ (opcodeRow_mem i)] at hsel

/-- Settles O4: a word decodes to the request whose word it is, and a request's word is its row's fixed bits with its operands in the open ones. -/
theorem decodeReturnsTheFittingRow : Obligations.DecodeReturnsTheFittingRow :=
  ⟨decode_eq_ok_iff_row, decode_error_iff_no_row⟩

/-- Settles O5, byte by byte, since each word decodes to the request it encodes. -/
theorem printExpandsToOneRequestPerByte : Obligations.PrintExpandsToOneRequestPerByte := by
  intro text
  rw [printWords, List.map_map]
  exact List.map_congr_left fun c _ => decode_encode (.printChar c)

/-! ## The expander byte (R79) -/

/-- The data bits of a nibble's byte (R56). -/
theorem nibbleByte_data (p : PinAssignment) (h : p.Distinct) (v : Nibble) (isData bl : Bool) :
    (nibbleByte p v isData bl).getLsbD p.d4 = v.getLsbD 0 ∧ (nibbleByte p v isData bl).getLsbD p.d5 = v.getLsbD 1 ∧
      (nibbleByte p v isData bl).getLsbD p.d6 = v.getLsbD 2 ∧ (nibbleByte p v isData bl).getLsbD p.d7 = v.getLsbD 3 := by
  simp only [getLsbD_nibbleByte, getLsbD_pinMap, pins_ne p h, Bool.and_false, Bool.or_false, Bool.false_or, decide_true,
    Bool.and_true, and_self]

/-- Setting the enable bit leaves the other bits alone. -/
theorem getLsbD_or_maskEn (p : PinAssignment) (b : Byte) (k : Nat) :
    (b ||| maskEn p).getLsbD k = (b.getLsbD k || decide (k = p.en.val)) := by
  simp [maskEn, BitVec.getLsbD_or]

/-- Settles O8: the two writes of a pulse differ in the enable bit alone, so every other bit is the nibble byte's. -/
theorem expanderByteHasTheNamedBits : Obligations.ExpanderByteHasTheNamedBits := by
  intro p hp
  refine ⟨pinFree_iff p hp, fun v isData bl b hb => ?_⟩
  have same (k : Nat) (hk : decide (k = p.en.val) = false) : b.getLsbD k = (nibbleByte p v isData bl).getLsbD k := by
    simp only [List.mem_cons, List.not_mem_nil, or_false] at hb
    rcases hb with rfl | rfl
    · rw [getLsbD_or_maskEn, hk, Bool.or_false]
    · rfl
  obtain ⟨hd4, hd5, hd6, hd7⟩ := nibbleByte_data p hp v isData bl
  have hen : (nibbleByte p v isData bl ||| maskEn p).getLsbD p.en = true := by
    rw [getLsbD_or_maskEn, decide_eq_true rfl, Bool.or_true]
  simp only [same, pins_ne p hp, pinFree_ne p hp, hd4, hd5, hd6, hd7, nibbleByte_rs p hp, nibbleByte_bl p hp, nibbleByte_free p hp, hen,
    nibbleByte_en p hp, and_self]

end Sys2Proof.Machine

/-! PROOFS. The transmit path (spec/40_transmit.md): the enable pulse, the order of a byte's nibbles, and the spacing of the `WRITE`s over every step. -/

namespace Sys2Proof.Machine

/-! ## The spacing of a list of events (R105) -/

/-- A paced list ends no `WRITE` short of its wait, so what follows it is judged alone. -/
theorem paced_append_of_paced {t : Nat} {es : List Event} (h : paced t es = true) (fs : List Event) :
    paced t (es ++ fs) = paced t fs := by
  induction es using paced.induct with
  | case1 => rfl
  | case2 a b u es ih =>
    obtain ⟨hu, hes⟩ : u = t ∧ paced t es = true := by simpa [paced] using h
    simp [paced, hu, ih hes]
  | case3 a b es hw => simp [paced] at h
  | case4 a r es ih => exact ih h
  | case5 u es ih => exact ih h

/-- The events before a `WRITE` of a paced list are paced: the `WRITE` itself cannot be the wait of an earlier one. -/
theorem paced_before_write {t : Nat} {pre post : List Event} {a : Addr7} {b : Byte}
    (h : paced t (pre ++ .write a b :: post) = true) : paced t pre = true := by
  induction pre using paced.induct with
  | case1 => rfl
  | case2 a' b' u es ih =>
    obtain ⟨hu, hes⟩ : u = t ∧ paced t (es ++ .write a b :: post) = true := by simpa [paced] using h
    simp [paced, hu, ih hes]
  | case3 a' b' es hw =>
    cases es with
    | nil => simp [paced] at h
    | cons e es =>
      cases e with
      | wait u => exact absurd rfl (hw u es)
      | write a'' b'' => simp [paced] at h
      | probe a'' r => simp [paced] at h
  | case4 a' r es ih => exact ih h
  | case5 u es ih => exact ih h

@[simp] theorem paced_waits (t : Nat) (ts : List Nat) : paced t (ts.map .wait) = true := by
  induction ts with
  | nil => rfl
  | cons u ts ih => exact ih

/-- Every display request keeps the spacing: with `RDY` = 1 it sends one byte and then only waits, with `RDY` = 0 nothing. -/
theorem paced_requestEvents {i : Instr} (s : State) (hi : isConstruct i = false) :
    paced s.cfg.tWrUs (requestEvents i (requestUpdate i s)) = true := by
  cases hr : s.rdy with
  | false => rw [requestEvents_of_not_rdy i (by simpa using hr)]; rfl
  | true =>
    obtain ⟨isData, v, ts, -, hes⟩ := requestEvents_eq_byte_waits hi hr
    rw [hes, paced_byte_append, paced_waits]

/-- The init sequence keeps the spacing: it is made of pulses and of waits between them (R135). -/
theorem paced_initEvents (cfg : Params) (addr : Addr7) (cf : ControlFlags) (bl : Bool) :
    paced cfg.tWrUs (initEvents cfg addr cf bl) = true := by
  have lastByte (v : Byte) : paced cfg.tWrUs (byteEvents cfg addr true v false) = true := by
    rw [← List.append_nil (byteEvents ..), paced_byte_append]; rfl
  simp only [initEvents, List.append_assoc, List.cons_append, List.nil_append, paced, paced_pulse_append, paced_byte_append, lastByte]

/-! ## The spacing of a state's trace -/

@[simp] theorem requestUpdate_cfg (i : Instr) (s : State) : (requestUpdate i s).cfg = s.cfg := by cases i <;> rfl

theorem tracePaced_of_not_busy {s : State} (hb : s.busy = false) : TracePaced s ↔ paced s.cfg.tWrUs s.trace = true := by
  simp [TracePaced, hb]

theorem tracePaced_of_busy {s : State} (hb : s.busy = true) :
    TracePaced s ↔ ∃ es a b, s.trace = es ++ [.write a b] ∧ paced s.cfg.tWrUs es = true := by
  simp [TracePaced, hb]

/-- A request that completed with paced events leaves a paced trace. -/
theorem tracePaced_of_completed {s t : State} {es : List Event} (hs : paced s.cfg.tWrUs s.trace = true) (hcfg : t.cfg = s.cfg)
    (hb : t.busy = false) (htr : t.trace = s.trace ++ es) (hes : paced s.cfg.tWrUs es = true) : TracePaced t := by
  rw [tracePaced_of_not_busy hb, hcfg, htr, paced_append_of_paced hs, hes]

/-- A request that is stuck in a `WRITE` of paced events leaves that `WRITE` last, after a paced trace (R206). -/
theorem tracePaced_of_stuck {s t : State} {pre post : List Event} {a : Addr7} {b : Byte} (hs : paced s.cfg.tWrUs s.trace = true)
    (hcfg : t.cfg = s.cfg) (hb : t.busy = true) (htr : t.trace = s.trace ++ (pre ++ [.write a b]))
    (hes : paced s.cfg.tWrUs (pre ++ .write a b :: post) = true) : TracePaced t := by
  rw [tracePaced_of_busy hb]
  refine ⟨s.trace ++ pre, a, b, by rw [htr, List.append_assoc], ?_⟩
  rw [hcfg, paced_append_of_paced hs, paced_before_write hes]

/-- A request keeps the spacing of the trace, however it ends. -/
theorem exec_next_tracePaced {i : Instr} {s t : State} (hs : paced s.cfg.tWrUs s.trace = true) (h : exec i s = .next t) :
    TracePaced t := by
  cases hi : isConstruct i with
  | false =>
    have hes := paced_requestEvents s hi
    obtain ⟨-, rfl | ⟨pre, a, b, post, ans, he, -, rfl⟩⟩ := exec_display_next i s t hi h
    · exact tracePaced_of_completed hs (by simp) (by simp) (by simp) hes
    · exact tracePaced_of_stuck hs (by simp) (by simp) (by simp) (he ▸ hes)
  | true =>
    obtain ⟨addr, rfl⟩ := eq_construct hi
    have hes := paced_initEvents s.cfg addr s.cf s.bl
    obtain ⟨-, ⟨-, rfl⟩ | ⟨-, rfl⟩ | ⟨-, hin, -, pre, a, b, post, he, htr⟩⟩ := exec_construct_next addr s t h
    · exact tracePaced_of_completed hs rfl rfl rfl rfl
    · exact tracePaced_of_completed hs rfl rfl rfl hes
    · exact tracePaced_of_stuck hs hin.cfg hin.busy htr (he ▸ hes)

/-- Settles O50, by the three things a step can do: wait and reset emit nothing, and a request emits paced events or a part of them that ends in
the `WRITE` it is stuck in. -/
theorem stepKeepsTheWriteSpacing : Obligations.StepKeepsTheWriteSpacing := by
  intro s t hs h
  obtain ⟨hb, ⟨-, rfl⟩ | ⟨w, rest, -, rfl⟩ | ⟨w, a, rest, i, -, -, hx⟩⟩ := step_next s t h
  case inl => exact hs
  all_goals rw [tracePaced_of_not_busy hb] at hs
  case inr.inl => exact (tracePaced_of_not_busy (by simp)).2 hs
  case inr.inr => exact exec_next_tracePaced (s := (s.withInputs rest).withAnswers a) hs hx

/-! ## The nibble transmitter and the byte (R103, R106) -/

/-- Settles O9: with `RDY` = 1 a nibble is the emission of one pulse, whose two `WRITE`s use two answers; with `RDY` = 0 of no event. -/
theorem sendNibbleIsOneEnablePulse : Obligations.SendNibbleIsOneEnablePulse := by
  refine fun v isData s => ⟨fun hr ht => ?_, fun hr => ?_⟩
  · rw [sendNibble_eq, if_pos hr, emitAll_completes _ _ ht, Answers.after, pulseEvents_writes]
    rfl
  · rw [sendNibble_eq, hr]
    rfl

theorem highNibble_toNat (v : Byte) : (highNibble v).toNat = v.toNat / 16 := by
  have := v.isLt
  rw [highNibble, BitVec.extractLsb'_toNat, Nat.shiftRight_eq_div_pow]
  omega

theorem lowNibble_toNat (v : Byte) : (lowNibble v).toNat = v.toNat % 16 := by
  rw [lowNibble, BitVec.extractLsb'_toNat, Nat.shiftRight_zero]

/-- Settles O11: a byte is the emission of its eight events, the pulse of the high nibble before that of the low one. -/
theorem sendByteSendsHighNibbleFirst : Obligations.SendByteSendsHighNibbleFirst := by
  refine ⟨fun v => ⟨highNibble_toNat v, lowNibble_toNat v⟩, fun _ _ => ⟨rfl, rfl⟩, fun v isData s => ⟨fun hr ht => ?_, fun hr => ?_⟩⟩
  · rw [sendByte_eq, byteEvents_ready s v isData hr, emitAll_completes _ _ ht, Answers.after, byteEvents_writes]
    rfl
  · rw [sendByte_eq, State.byteEvents_of_not_rdy hr]
    rfl

end Sys2Proof.Machine

/-! PROOFS. CONSTRUCT (spec/41_init.md): what it answers in every phase. -/

namespace Sys2Proof.Machine

/-- CONSTRUCT outside `UNCONSTRUCTED` is refused as `ALREADY_CONSTRUCTED` (R211). -/
theorem exec_construct_refused (addr : Addr7) {s : State} (hp : s.phase ≠ .unconstructed) :
    exec (.construct addr) s = .refused .alreadyConstructed := by
  simp [exec, execConstruct, constructRequest, hp]

/-- Settles O13, clause by clause: the init sequence run to its end, the probe that is not answered, and the refusal. -/
theorem constructRunsTheInitSequence : Obligations.ConstructRunsTheInitSequence := by
  refine fun addr s => ⟨fun hp hr ht => ?_, fun hp hr => ?_, fun hp => ?_⟩
  · exact exec_construct_completes addr s hp hr ht
  · exact exec_construct_silent addr s hp hr
  · exact exec_construct_refused addr hp

end Sys2Proof.Machine

/-! PROOFS. The display requests (spec/42_display_ops.md): each is its update and its events, and SETCURSOR sees its operands only as the clamped
cell. -/

namespace Sys2Proof.Machine

/-! ## What a display request answers (R150, R211) -/

theorem displayLegal_iff (p : Phase) : displayLegal p = true ↔ p = .ready ∨ p = .abandoned := decide_eq_true_iff

/-- A display request completes with its update and its events in `READY` and `ABANDONED`, and is refused in every other phase. -/
theorem exec_display_answers {i : Instr} (hi : isConstruct i = false) (s : State) :
    (s.phase = .ready ∨ s.phase = .abandoned → TransportCompletes s →
      exec i s = .next ((requestUpdate i s).completed (requestEvents i (requestUpdate i s)))) ∧
    (¬(s.phase = .ready ∨ s.phase = .abandoned) → exec i s = .refused .notConstructed) := by
  rw [← displayLegal_iff]
  exact ⟨exec_display_completes i s hi, fun hl => exec_display_refused i s hi (Bool.eq_false_of_not_eq_true hl)⟩

/-- Settles O16: CLEAR updates nothing, and its events are the byte of `CMD_CLEAR` and the wait that settles the LCD. -/
theorem clearSendsClearAndSettles : Obligations.ClearSendsClearAndSettles :=
  fun s => exec_display_answers (i := .clear) rfl s

/-- Settles O18: the events are those of the state in which `BL` is already written. -/
theorem backlightRequestsSendTheCarrier : Obligations.BacklightRequestsSendTheCarrier := by
  intro s
  obtain ⟨hon, hon'⟩ := exec_display_answers (i := .backlightOn) rfl s
  obtain ⟨hoff, hoff'⟩ := exec_display_answers (i := .backlightOff) rfl s
  exact ⟨fun hp ht => ⟨hon hp ht, hoff hp ht⟩, fun hp => ⟨hon' hp, hoff' hp⟩⟩

/-- Settles O19: the events are those of the state in which `CF.D` is already written. -/
theorem displayRequestsSendTheCombinedFlags : Obligations.DisplayRequestsSendTheCombinedFlags := by
  intro s
  obtain ⟨hon, hon'⟩ := exec_display_answers (i := .displayOn) rfl s
  obtain ⟨hoff, hoff'⟩ := exec_display_answers (i := .displayOff) rfl s
  exact ⟨fun hp ht => ⟨hon hp ht, hoff hp ht⟩, fun hp => ⟨hon' hp, hoff' hp⟩⟩

/-- Settles O20: PRINTCHAR updates nothing, and its events are those of its own byte as data. -/
theorem printCharSendsItsByteAsData : Obligations.PrintCharSendsItsByteAsData :=
  fun c s => exec_display_answers (i := .printChar c) rfl s

/-! ## SETCURSOR's cell and its address (R152, R153, R172) -/

theorem clamp_le (v : Byte) (n : Nat) : clamp v n ≤ n - 1 := min_le_right _ _

/-- R172: at most 40 columns and 2 rows, so the cell's address fits 7 bits. -/
theorem ddramAddr_toNat {width : Nat} (hw : WidthInRange width) (x y : Byte) :
    (ddramAddr width x y).toNat = clamp x width + clamp y Config.height * 0x40 := by
  have hx := clamp_le x width
  have hy : clamp y Config.height ≤ 1 := clamp_le y 2
  obtain ⟨-, hw⟩ := hw
  rw [ddramAddr, BitVec.toNat_ofNat, Nat.mod_eq_of_lt (by omega)]

/-- The command byte of the cell, with the sum taken on 8 bits: the 7-bit address loses nothing. -/
theorem cmdDdram_ddramAddr {width : Nat} (hw : WidthInRange width) (x y : Byte) :
    cmdDdram (ddramAddr width x y) = 0x80 ||| BitVec.ofNat 8 (clamp x width + clamp y Config.height * 0x40) := by
  rw [cmdDdram, ← ddramAddr_toNat hw, BitVec.ofNat_toNat]

/-- Settles O17: SETCURSOR updates nothing, and its events are the byte of the clamped cell's address. -/
theorem setCursorSendsTheClampedAddress : Obligations.SetCursorSendsTheClampedAddress := by
  intro x y s
  obtain ⟨hnext, hrefused⟩ := exec_display_answers (i := .setCursor x y) rfl s
  refine ⟨fun hp ht => ?_, hrefused⟩
  rw [hnext hp ht, requestUpdate, requestEvents, cmdDdram_ddramAddr s.cfg.widthInRange]
  rfl

/-- A clamped coordinate fits a byte, and clamping it again changes nothing. -/
theorem clamp_ofNat_clamp (v : Byte) (n : Nat) : clamp (BitVec.ofNat 8 (clamp v n)) n = clamp v n := by
  have hlt : clamp v n < 2 ^ 8 := (min_le_left _ _).trans_lt v.isLt
  rw [clamp, BitVec.toNat_ofNat, Nat.mod_eq_of_lt hlt, min_eq_left (clamp_le v n)]

/-- R152: the address of the clamped cell is that of the cell. -/
theorem ddramAddr_clamped (width : Nat) (x y : Byte) :
    ddramAddr width (BitVec.ofNat 8 (clamp x width)) (BitVec.ofNat 8 (clamp y Config.height)) = ddramAddr width x y := by
  rw [ddramAddr, clamp_ofNat_clamp, clamp_ofNat_clamp, ddramAddr]

/-- SETCURSOR reads its operands only through the DDRAM address of their cell, in every phase and with every transport. -/
theorem exec_setCursor_congr {x y x' y' : Byte} {s : State} (h : ddramAddr s.cfg.width x y = ddramAddr s.cfg.width x' y') :
    exec (.setCursor x y) s = exec (.setCursor x' y') s := by
  simp only [exec, execSetCursor, displayRequest, setCursorBody, State.withBusy_cfg, h]

/-- Settles O21: the clamped cell is its own clamped cell, so both requests name one address. -/
theorem setCursorActsAsItsClampedCell : Obligations.SetCursorActsAsItsClampedCell :=
  fun x y s => exec_setCursor_congr (ddramAddr_clamped s.cfg.width x y).symm

end Sys2Proof.Machine

/-! PROOFS. Refusals, degraded mode and the ignored write statuses (spec/60_exceptions.md): what the block does with a word that it may not run,
with a display that did not answer, and with the status of a `WRITE`. -/

namespace Sys2Proof.Machine

/-! ## What a word and a move come to -/

theorem runWord_of_error {w : ReqWord} {e : Reserved} (h : decode w = .error e) (s : State) :
    runWord w s = .refused .reservedRequest := by
  rw [runWord, h]

theorem runWord_of_ok {w : ReqWord} {i : Instr} (h : decode w = .ok i) (s : State) : runWord w s = exec i s := by
  rw [runWord, h]

theorem step_of_no_input {s : State} (h : s.inputs = []) : step s = waitForHost s := by
  rw [step, h]

theorem step_of_input {s : State} {m : Input} {rest : List Input} (h : s.inputs = m :: rest) :
    step s = takeInput m (s.withInputs rest) := by
  rw [step, h]

theorem takeRequest_of_not_busy {s : State} (h : s.busy = false) (w : ReqWord) (a : Answers) :
    takeRequest w a s = runWord w (s.withAnswers a) := by
  rw [takeRequest, h]
  rfl

/-! ## Refusals (R210 to R212) -/

/-- However far a request has come, its end is a next state: completed, or stuck (R206). -/
theorem finish_eq_next (r : Run) : ∃ t, finish r = .next t := by
  cases r with
  | done s => exact ⟨_, rfl⟩
  | hung s => exact ⟨_, rfl⟩

theorem exec_construct_eq (addr : Addr7) {s : State} (hp : s.phase = .unconstructed) :
    exec (.construct addr) s = finish (constructBody addr (s.withBusy true)) :=
  if_pos hp

theorem refusalOf_display {i : Instr} (hi : isConstruct i = false) : refusalOf i = .notConstructed := by
  cases i with
  | construct addr => cases hi
  | _ => rfl

/-- A legal request has a next state, whatever the transport does. -/
theorem exec_next_of_legal {i : Instr} {s : State} (hl : legal i s.phase = true) : ∃ t, exec i s = .next t := by
  cases hi : isConstruct i with
  | false =>
    rw [exec_display_eq i s hi (legal_display hi s.phase ▸ hl)]
    exact finish_eq_next _
  | true =>
    obtain ⟨addr, rfl⟩ := eq_construct hi
    rw [exec_construct_eq addr (of_decide_eq_true hl)]
    exact finish_eq_next _

/-- An illegal request is refused for its phase. -/
theorem exec_refused_of_illegal {i : Instr} {s : State} (hl : legal i s.phase = false) : exec i s = .refused (refusalOf i) := by
  cases hi : isConstruct i with
  | false =>
    rw [refusalOf_display hi]
    exact exec_display_refused i s hi (legal_display hi s.phase ▸ hl)
  | true =>
    obtain ⟨addr, rfl⟩ := eq_construct hi
    exact exec_construct_refused addr (of_decide_eq_false hl)

/-- Settles O30: `runWord` follows the decoder, and `exec` the legality of R211. -/
theorem requestsAreRefusedExactlyWhenIllegal : Obligations.RequestsAreRefusedExactlyWhenIllegal :=
  ⟨fun _ _ s hd => runWord_of_error hd s, fun _ _ s hd => runWord_of_ok hd s,
    fun _ _ => ⟨exec_next_of_legal, exec_refused_of_illegal⟩⟩

/-- Settles O31: a block that is not busy decodes the word before it looks at its phase. -/
theorem reservedWordsAreRefusedInEveryPhase : Obligations.ReservedWordsAreRefusedInEveryPhase := by
  intro s w a rest e hb hin hd
  calc step s = takeRequest w a (s.withInputs rest) := step_of_input hin
    _ = runWord w ((s.withInputs rest).withAnswers a) := takeRequest_of_not_busy (s := s.withInputs rest) hb w a
    _ = .refused .reservedRequest := runWord_of_error hd _

/-! ## Degraded mode (R203, R204) -/

theorem requestUpdate_withBusy (i : Instr) (v : Bool) (s : State) :
    requestUpdate i (s.withBusy v) = (requestUpdate i s).withBusy v := by
  cases i <;> rfl

@[simp] theorem requestUpdate_phase (i : Instr) (s : State) : (requestUpdate i s).phase = s.phase := by cases i <;> rfl

@[simp] theorem requestUpdate_inputs (i : Instr) (s : State) : (requestUpdate i s).inputs = s.inputs := by cases i <;> rfl

/-- With `RDY` = 0 a legal display request is its update alone: there is no event, so no `WRITE` that could hang. -/
theorem exec_display_of_not_rdy {i : Instr} {s : State} (hi : isConstruct i = false) (hl : displayLegal s.phase = true)
    (hr : s.rdy = false) : exec i s = .next ((requestUpdate i s).completed []) := by
  rw [exec_display_eq i s hi hl, requestEvents_of_not_rdy i (by simpa using hr), requestUpdate_withBusy, State.completed,
    List.append_nil]
  rfl

/-- Settles O35: degraded mode is `ABANDONED` with `RDY` = 0, where every display request is legal and silent. -/
theorem degradedRequestsEmitNothing : Obligations.DegradedRequestsEmitNothing := by
  intro i s hi hp hr
  rw [exec_display_of_not_rdy hi ((displayLegal_iff _).2 (.inr hp)) hr, State.completed, List.append_nil]

/-- What every step preserves holds at the end of a run. -/
theorem run_preserves {M : Host.Core} {P : M.State → Prop} (hstep : ∀ s t, P s → M.step s = .next t → P t) {n : Nat}
    {s t : M.State} (hs : P s) (h : M.run n s = .next t) : P t := by
  induction n generalizing s with
  | zero =>
    cases h
    exact hs
  | succ n ih =>
    rw [Host.Core.run] at h
    split at h
    next u hu => exact ih (hstep s u hs hu) h
    next => cases h
    next => cases h

/-- The block is degraded with the events `tr` behind it, and the host has no reset to come. -/
structure DegradedAfter (tr : List Event) (s : State) : Prop where
  phase : s.phase = .abandoned
  rdy : s.rdy = false
  noReset : ∀ m ∈ s.inputs, m.isReset = false
  trace : s.trace = tr

/-- A degraded block answers only display requests: CONSTRUCT is refused there. -/
theorem isConstruct_of_exec_next_degraded {i : Instr} {s t : State} (hp : s.phase = .abandoned) (h : exec i s = .next t) :
    isConstruct i = false := by
  cases hi : isConstruct i with
  | false => rfl
  | true =>
    obtain ⟨addr, rfl⟩ := eq_construct hi
    rw [exec_construct_refused addr (by simp [hp])] at h
    cases h

theorem DegradedAfter.exec_next {tr : List Event} {i : Instr} {s t : State} (hs : DegradedAfter tr s) (h : exec i s = .next t) :
    DegradedAfter tr t := by
  obtain ⟨hp, hr, hm, htr⟩ := hs
  rw [exec_display_of_not_rdy (isConstruct_of_exec_next_degraded hp h) ((displayLegal_iff _).2 (.inr hp)) hr] at h
  cases h
  exact ⟨by simpa using hp, by simpa using hr, by simpa using hm, by simpa using htr⟩

/-- R204 for one step: without a reset nothing leads out of degraded mode, and nothing is emitted. -/
theorem DegradedAfter.step_next {tr : List Event} {s t : State} (hs : DegradedAfter tr s) (h : step s = .next t) :
    DegradedAfter tr t := by
  obtain ⟨-, ⟨-, rfl⟩ | ⟨w, rest, hin, rfl⟩ | ⟨w, a, rest, i, hin, -, hx⟩⟩ := Machine.step_next s t h
  case inl => exact hs
  case inr.inl => cases hs.noReset (.reset w) (by simp [hin])
  case inr.inr =>
    have hrest : ∀ m ∈ rest, m.isReset = false := fun m hm => hs.noReset m (by simp [hin, hm])
    exact DegradedAfter.exec_next (s := (s.withInputs rest).withAnswers a) ⟨hs.phase, hs.rdy, hrest, hs.trace⟩ hx

/-- Settles O36, by the invariant that the block is degraded with its first trace. -/
theorem degradedModeLastsUntilReset : Obligations.DegradedModeLastsUntilReset := by
  intro n s t hp hr hm h
  obtain ⟨hp', hr', -, htr⟩ := run_preserves (M := core) (P := DegradedAfter s.trace) (fun _ _ => DegradedAfter.step_next) ⟨hp, hr, hm, rfl⟩ h
  exact ⟨hp', hr', htr⟩

/-! ## The statuses of the `WRITE`s (R205) -/

/-- A part of a request with the statuses of its state forgotten. -/
def Run.forget : Run → Run
  | .done s => .done s.forget
  | .hung s => .hung s.forget

/-- A part of a request does the same, whatever the statuses. -/
def IgnoresStatuses (f : State → Run) : Prop := ∀ s, f s.forget = (f s).forget

theorem Run.forget_andThen (r : Run) {f : State → Run} (hf : IgnoresStatuses f) : r.forget.andThen f = (r.andThen f).forget := by
  cases r with
  | done s => exact hf s
  | hung s => rfl

theorem IgnoresStatuses.andThen {f g : State → Run} (hf : IgnoresStatuses f) (hg : IgnoresStatuses g) :
    IgnoresStatuses fun s => (f s).andThen g := by
  intro s
  show (f s.forget).andThen g = _
  rw [hf s, Run.forget_andThen _ hg]

/-- An update that commutes with forgetting may come first. -/
theorem IgnoresStatuses.comp {f : State → Run} (hf : IgnoresStatuses f) {u : State → State} (hu : ∀ s, u s.forget = (u s).forget) :
    IgnoresStatuses fun s => f (u s) := by
  intro s
  show f (u s.forget) = _
  rw [hu, hf]

theorem WriteAnswer.forget_eq_never_iff {x : WriteAnswer} : x.forget = .never ↔ x = .never := by
  cases x <;> simp [WriteAnswer.forget]

/-- Whether the next `WRITE` hangs is no status. -/
theorem head_forget_eq_never_iff (a : Answers) : a.forget.writes.head? = some .never ↔ a.writes.head? = some .never := by
  simp [Answers.forget, WriteAnswer.forget_eq_never_iff]

theorem State.forget_popWriteAnswer (s : State) : s.forget.popWriteAnswer = s.popWriteAnswer.forget := by
  simp [State.forget, State.popWriteAnswer, Answers.forget, List.map_tail]

theorem emit_ignoresStatuses (e : Event) : IgnoresStatuses (emit e) := by
  intro s
  cases e with
  | write a b =>
    have hpop : (s.forget.record (.write a b)).popWriteAnswer = (s.record (.write a b)).popWriteAnswer.forget :=
      State.forget_popWriteAnswer (s.record (.write a b))
    by_cases h : s.answers.writes.head? = some .never
    · simp only [emit, State.forget_answers, head_forget_eq_never_iff, h, if_true, hpop, Run.forget]
    · simp only [emit, State.forget_answers, head_forget_eq_never_iff, h, if_false, hpop, Run.forget]
  | probe a r => rfl
  | wait t => rfl

theorem emitAll_ignoresStatuses (es : List Event) : IgnoresStatuses (emitAll es) := by
  induction es with
  | nil => exact fun s => rfl
  | cons e es ih => exact (emit_ignoresStatuses e).andThen ih

/-- The transmitter's one branch is on `RDY`, and its events are made of `ADDR`, `BL` and the parameters. -/
theorem sendNibble_ignoresStatuses (v : Nibble) (isData : Bool) : IgnoresStatuses (sendNibble v isData) := by
  intro s
  rw [sendNibble_eq, sendNibble_eq, ← emitAll_ignoresStatuses]
  rfl

theorem sendByte_ignoresStatuses (v : Byte) (isData : Bool) : IgnoresStatuses (sendByte v isData) :=
  (sendNibble_ignoresStatuses _ isData).andThen (sendNibble_ignoresStatuses _ isData)

theorem sendCommand_ignoresStatuses (v : Byte) : IgnoresStatuses (sendCommand v) := sendByte_ignoresStatuses v false

theorem settle_ignoresStatuses (t : Nat) : IgnoresStatuses (settle t) := by
  intro s
  rw [settle_eq, settle_eq, ← emitAll_ignoresStatuses]
  rfl

theorem sendControl_ignoresStatuses : IgnoresStatuses sendControl := fun s => sendCommand_ignoresStatuses (dispCtlByte s.cf) s

theorem clearBody_ignoresStatuses : IgnoresStatuses clearBody :=
  (sendCommand_ignoresStatuses cmdClear).andThen (settle_ignoresStatuses delayClear)

theorem setCursorBody_ignoresStatuses (x y : Byte) : IgnoresStatuses (setCursorBody x y) :=
  fun s => sendCommand_ignoresStatuses (cmdDdram (ddramAddr s.cfg.width x y)) s

theorem backlightBody_ignoresStatuses (v : Bool) : IgnoresStatuses (backlightBody v) :=
  sendControl_ignoresStatuses.comp fun _ => rfl

theorem displayBody_ignoresStatuses (v : Bool) : IgnoresStatuses (displayBody v) :=
  sendControl_ignoresStatuses.comp (u := fun s => s.withCf (withDisplay v s.cf)) fun _ => rfl

/-- A sequencer state first writes its `PHASE`. -/
theorem IgnoresStatuses.inPhase {f : State → Run} (hf : IgnoresStatuses f) (p : Phase) : IgnoresStatuses fun s => f (s.withPhase p) :=
  hf.comp fun _ => rfl

theorem forcePulse_ignoresStatuses (p : Phase) (t : Nat) : IgnoresStatuses (forcePulse p t) :=
  ((sendNibble_ignoresStatuses nibFs8 false).inPhase p).andThen (emit_ignoresStatuses (.wait t))

/-- Each sequencer state ignores the statuses, so the sequence of them does (R120). -/
theorem initSequence_ignoresStatuses : IgnoresStatuses initSequence := by
  have hSwitch4 : IgnoresStatuses initSwitch4 := (sendNibble_ignoresStatuses nibFs4 false).inPhase .sw4
  have hFunc : IgnoresStatuses initCfgFunc := (sendCommand_ignoresStatuses cmdFunc).inPhase .cfgFunc
  have hDispOff : IgnoresStatuses initCfgDispOff := (displayBody_ignoresStatuses false).inPhase .cfgDispOff
  have hClear : IgnoresStatuses initCfgClear := clearBody_ignoresStatuses.inPhase .cfgClear
  have hEntry : IgnoresStatuses initCfgEntry := (sendCommand_ignoresStatuses cmdEntry).inPhase .cfgEntry
  have hBacklight : IgnoresStatuses initBacklightOn := (backlightBody_ignoresStatuses true).inPhase .initBlOn
  have hDispOn : IgnoresStatuses initDisplayOn := (displayBody_ignoresStatuses true).inPhase .initDispOn
  have hReady : IgnoresStatuses initReady := fun _ => rfl
  have hPulses := ((forcePulse_ignoresStatuses .f8First delayPulse1).andThen (forcePulse_ignoresStatuses .f8Second delayPulse2)).andThen
    (forcePulse_ignoresStatuses .f8Third delayPulse3)
  exact ((((((hPulses.andThen hSwitch4).andThen hFunc).andThen hDispOff).andThen hClear).andThen hEntry).andThen hBacklight).andThen
    (hDispOn.andThen hReady)

/-- CONSTRUCT branches on the answer to the probe, which is no status. -/
theorem constructBody_ignoresStatuses (addr : Addr7) : IgnoresStatuses (constructBody addr) := by
  intro s
  have hafter (r : Bool) : IgnoresStatuses fun s => if r then initSequence (s.withRdy true) else .done (s.withPhase .abandoned) := by
    cases r with
    | false => exact fun _ => rfl
    | true => exact initSequence_ignoresStatuses.comp (u := State.withRdy true) fun _ => rfl
  have hprobe (r : Bool) : IgnoresStatuses fun s => emit (.probe addr r) ((s.withAddr addr).withPhase .powerOn) :=
    (emit_ignoresStatuses (.probe addr r)).comp fun _ => rfl
  exact (hprobe s.answers.probe).andThen (hafter s.answers.probe) s

theorem finish_forget (r : Run) : finish r.forget = forgetOutcome (finish r) := by
  cases r with
  | done s => rfl
  | hung s => rfl

/-- A request that is carried out ends alike, whatever the statuses. -/
theorem finish_body_forget {body : State → Run} (hbody : IgnoresStatuses body) (s : State) :
    finish (body (s.forget.withBusy true)) = forgetOutcome (finish (body (s.withBusy true))) := by
  rw [← finish_forget, ← hbody]
  rfl

theorem displayRequest_forget {body : State → Run} (hbody : IgnoresStatuses body) (s : State) :
    displayRequest body s.forget = forgetOutcome (displayRequest body s) := by
  unfold displayRequest
  rw [State.forget_phase, finish_body_forget hbody]
  split <;> rfl

theorem constructRequest_forget {body : State → Run} (hbody : IgnoresStatuses body) (s : State) :
    constructRequest body s.forget = forgetOutcome (constructRequest body s) := by
  unfold constructRequest
  rw [State.forget_phase, finish_body_forget hbody]
  split <;> rfl

theorem exec_forget (i : Instr) (s : State) : exec i s.forget = forgetOutcome (exec i s) := by
  cases i with
  | construct addr => exact constructRequest_forget (constructBody_ignoresStatuses addr) s
  | clear => exact displayRequest_forget clearBody_ignoresStatuses s
  | setCursor x y => exact displayRequest_forget (setCursorBody_ignoresStatuses x y) s
  | backlightOn => exact displayRequest_forget (backlightBody_ignoresStatuses true) s
  | backlightOff => exact displayRequest_forget (backlightBody_ignoresStatuses false) s
  | displayOn => exact displayRequest_forget (displayBody_ignoresStatuses true) s
  | displayOff => exact displayRequest_forget (displayBody_ignoresStatuses false) s
  | printChar c => exact displayRequest_forget (sendByte_ignoresStatuses c true) s

theorem runWord_forget (w : ReqWord) (s : State) : runWord w s.forget = forgetOutcome (runWord w s) := by
  cases hd : decode w with
  | error e => rw [runWord_of_error hd, runWord_of_error hd, forgetOutcome]
  | ok i => rw [runWord_of_ok hd, runWord_of_ok hd, exec_forget]

theorem waitForHost_forget (s : State) : waitForHost s.forget = forgetOutcome (waitForHost s) := by
  unfold waitForHost
  rw [State.forget_busy]
  split <;> rfl

theorem takeInput_forget (m : Input) (s : State) : takeInput m.forget s.forget = forgetOutcome (takeInput m s) := by
  cases m with
  | request w a =>
    show takeRequest w a.forget s.forget = forgetOutcome (takeRequest w a s)
    unfold takeRequest
    rw [State.forget_busy]
    split
    · rfl
    · exact runWord_forget w (s.withAnswers a)
  | reset w =>
    show takeReset s.forget = forgetOutcome (takeReset s)
    unfold takeReset
    rw [State.forget_busy]
    split <;> rfl

/-- Settles O37: forgetting the statuses commutes with waiting and with each move of the host. -/
theorem writeStatusesAreIgnored : Obligations.WriteStatusesAreIgnored := by
  intro s
  cases hin : s.inputs with
  | nil =>
    rw [step_of_no_input hin, step_of_no_input (by rw [State.forget_inputs, hin, List.map_nil]), waitForHost_forget]
  | cons m rest =>
    rw [step_of_input hin, step_of_input (by rw [State.forget_inputs, hin, List.map_cons]), ← takeInput_forget]
    rfl

end Sys2Proof.Machine

/-! PROOFS. A reset that the block honours (spec/70_reset_and_hazards.md R230). -/

namespace Sys2Proof.Machine

theorem takeReset_of_not_busy {s : State} (hb : s.busy = false) : takeReset s = .next s.applyReset := by
  simp [takeReset, hb]

/-- R230 and R213: a reset taken while not busy consumes its move and the word beside it, and resets the block. -/
theorem step_of_reset {s : State} {alongside : Option ReqWord} {rest : List Input} (hb : s.busy = false)
    (hin : s.inputs = .reset alongside :: rest) : step s = .next (s.withInputs rest).applyReset :=
  calc step s = takeReset (s.withInputs rest) := step_of_input hin
    _ = .next (s.withInputs rest).applyReset := takeReset_of_not_busy ((State.withInputs_busy rest s).trans hb)

/-- Settles O45: the next state is `applyReset` of the state without the move, read off field by field. -/
theorem resetPutsEveryElementAtItsValue : Obligations.ResetPutsEveryElementAtItsValue := by
  intro s alongside rest hb hin
  exact ⟨(s.withInputs rest).applyReset, step_of_reset hb hin, State.applyReset_phase _, State.applyReset_rdy _,
    State.applyReset_cf _, State.applyReset_bl _, State.applyReset_busy _, State.applyReset_trace _, State.applyReset_cfg _,
    State.applyReset_inputs _⟩

end Sys2Proof.Machine

/-! PROOFS. One word per request, and the operand ranges of the assembler (spec/30_encoding.md R72 to R77). -/

namespace Sys2Proof.Machine

/-! ## Words and requests (R72, R74) -/

/-- Settles O2: the fields of an encoded word are those it was built from, row by row. -/
theorem decodeOfEncodeIsTheRequest : Obligations.DecodeOfEncodeIsTheRequest := decode_encode

/-- Settles O3: a word is its three fields, and each row fixes the ones that are not operands. -/
theorem encodeOfDecodeIsTheWord : Obligations.EncodeOfDecodeIsTheWord := fun _ _ => encode_of_decode

/-- Settles O1 by running the decoder: every word in it is a literal. -/
theorem encodingTableWordsDecode : Obligations.EncodingTableWordsDecode := by
  unfold Obligations.EncodingTableWordsDecode
  decide

/-! ## The assembler (R77) -/

theorem assemble_isSome (l : AsmLine) : (assemble l).isSome = l.wellFormed := by
  unfold assemble
  split
  case isTrue h => rw [h, Option.isSome_some]
  case isFalse h => rw [Bool.eq_false_of_not_eq_true h, Option.isSome_none]

theorem assemble_construct {n : Nat} (hn : n ≤ 127) :
    (assemble (.construct n)).map (List.map decode) = some [.ok (.construct (BitVec.ofNat 7 n))] := by
  simp [assemble, AsmLine.wellFormed, hn, decode_encode]

theorem assemble_setCursor {x y : Nat} (hx : x ≤ 255) (hy : y ≤ 255) :
    (assemble (.setCursor x y)).map (List.map decode) = some [.ok (.setCursor (BitVec.ofNat 8 x) (BitVec.ofNat 8 y))] := by
  simp [assemble, AsmLine.wellFormed, hx, hy, decode_encode]

theorem assemble_printChar {c : Nat} (hc : c ≤ 255) :
    (assemble (.printChar c)).map (List.map decode) = some [.ok (.printChar (BitVec.ofNat 8 c))] := by
  simp [assemble, AsmLine.wellFormed, hc, decode_encode]

/-- Settles O6: a line assembles where `AsmLine.wellFormed` says so, and a number in range survives its field's width. -/
theorem assemblerTakesOperandsInRange : Obligations.AssemblerTakesOperandsInRange := by
  have fits {w n : Nat} (h : n < 2 ^ w) : (BitVec.ofNat w n).toNat = n := by rw [BitVec.toNat_ofNat, Nat.mod_eq_of_lt h]
  refine ⟨fun n => ?_, fun x y => ?_, fun c => ?_, fun n hn => ?_, fun x hx y hy => ?_, fun c hc => ?_⟩
  · rw [assemble_isSome]; simp [AsmLine.wellFormed]
  · rw [assemble_isSome]; simp [AsmLine.wellFormed]
  · rw [assemble_isSome]; simp [AsmLine.wellFormed]
  · exact ⟨_, fits (Nat.lt_succ_of_le hn), assemble_construct hn⟩
  · exact ⟨_, _, fits (Nat.lt_succ_of_le hx), fits (Nat.lt_succ_of_le hy), assemble_setCursor hx hy⟩
  · exact ⟨_, fits (Nat.lt_succ_of_le hc), assemble_printChar hc⟩

end Sys2Proof.Machine

/-! PROOFS. The bytes that the block builds: the pin map (spec/40_transmit.md R101), the command values (spec/30_encoding.md R83, R84), the DDRAM
address (spec/42_display_ops.md R172), and the configurations for which they are built (spec/00_scope.md R6, R7). -/

namespace Sys2Proof.Machine

/-! ## The pin map (R101) -/

/-- Bytes that share no set bit have their set bits side by side in the OR. -/
theorem popcount_or_of_disjoint {n : Nat} {a b : BitVec n} (h : ∀ k, (a.getLsbD k && b.getLsbD k) = false) :
    popcount (a ||| b) = popcount a + popcount b := by
  simp only [popcount, BitVec.getLsbD_or]
  induction List.range n with
  | nil => rfl
  | cons k ks ih =>
    have hk := h k
    simp only [List.countP_cons, ih]
    cases ha : a.getLsbD k with
    | false => rw [Bool.false_or]; simp only [Bool.false_eq_true, if_false]; omega
    | true => rw [ha, Bool.true_and] at hk; simp only [hk, Bool.true_or, Bool.false_eq_true, if_true, if_false]; omega

theorem popcount_maskIf_bit : ∀ (c : Bool) (p : Fin 8), popcount (maskIf c (bit p)) = c.toNat := by decide

theorem popcount_nibble : ∀ v : Nibble,
    popcount v = (v.getLsbD 0).toNat + (v.getLsbD 1).toNat + (v.getLsbD 2).toNat + (v.getLsbD 3).toNat := by decide

/-- Masks of different bits share no set bit. -/
theorem maskIf_bit_disjoint {p q : Fin 8} (h : decide (p.val = q.val) = false) (c d : Bool) (k : Nat) :
    ((maskIf c (bit p)).getLsbD k && (maskIf d (bit q)).getLsbD k) = false := by
  have hne : p.val ≠ q.val := of_decide_eq_false h
  simp only [getLsbD_maskIf, getLsbD_bit, Bool.and_eq_false_iff, decide_eq_false_iff_not]
  omega

theorem popcount_pinMap (p : PinAssignment) (h : p.Distinct) (v : Nibble) : popcount (pinMap p v) = popcount v := by
  have hne := pins_ne p h
  rw [pinMap, popcount_or_of_disjoint, popcount_or_of_disjoint, popcount_or_of_disjoint, popcount_nibble]
  · simp only [popcount_maskIf_bit]
  all_goals
    intro k
    simp only [BitVec.getLsbD_or, Bool.and_or_distrib_right, maskIf_bit_disjoint, hne, Bool.or_false]

/-- The control bits and the free bit of a mapped nibble are clear. -/
theorem pinMap_control (p : PinAssignment) (h : p.Distinct) (v : Nibble) :
    pinMap p v &&& (maskRs p ||| maskEn p ||| maskBl p ||| bit (pinFree p)) = 0 := by
  apply BitVec.eq_of_getLsbD_eq
  intro k _
  have clear (q : Fin 8) (hq : (pinMap p v).getLsbD q = false) : ((pinMap p v).getLsbD k && decide (k = q.val)) = false := by
    by_cases hk : k = q.val
    · rw [hk, hq, Bool.false_and]
    · rw [decide_eq_false hk, Bool.and_false]
  have hrs := clear p.rs (by simp only [getLsbD_pinMap, pins_ne p h, Bool.and_false, Bool.or_false])
  have hen := clear p.en (by simp only [getLsbD_pinMap, pins_ne p h, Bool.and_false, Bool.or_false])
  have hbl := clear p.bl (by simp only [getLsbD_pinMap, pins_ne p h, Bool.and_false, Bool.or_false])
  have hfree := clear (pinFree p) (by simp only [getLsbD_pinMap, pinFree_ne p h, Bool.and_false, Bool.or_false])
  simp only [maskRs, maskEn, maskBl, BitVec.getLsbD_and, BitVec.getLsbD_or, getLsbD_bit, Bool.and_or_distrib_left, hrs, hen, hbl, hfree,
    Bool.or_false, BitVec.ofNat_eq_ofNat, BitVec.getLsbD_zero]

/-- The data pins show the mapped nibble (R56). -/
theorem dataPins_pinMap (p : PinAssignment) (h : p.Distinct) (v : Nibble) : dataPins p (pinMap p v) = v := by
  have hbyte : nibbleByte p v false false = pinMap p v := by simp [nibbleByte, maskIf]
  rw [← hbyte, dataPins_nibbleByte p h]

/-- Settles O7: the four data pins are four different bits, none of them a control bit, and they show the nibble back. -/
theorem pinMapUsesOnePinPerSetBit : Obligations.PinMapUsesOnePinPerSetBit := by
  intro p h
  refine ⟨popcount_pinMap p h, pinMap_control p h, fun v v' hv => ?_⟩
  rw [← dataPins_pinMap p h v, hv, dataPins_pinMap p h]

/-! ## Command values and the DDRAM address (R24, R83, R84, R172) -/

theorem dispCtlByte_toNat (cf : ControlFlags) : (dispCtlByte cf).toNat = 8 + 4 * cf.d.toNat + 2 * cf.c.toNat + cf.b.toNat := by
  obtain ⟨d, c, b⟩ := cf
  revert d c b
  decide

/-- The OR with 0x80 is exact: a 7-bit address leaves bit 7 clear. -/
theorem cmdDdram_toNat : ∀ a : BitVec 7, (cmdDdram a).toNat = 0x80 + a.toNat := by decide

/-- Settles O12: the control byte sums its four bits, and the other values are literals. -/
theorem commandBytesAreTheStandardOnes : Obligations.CommandBytesAreTheStandardOnes :=
  ⟨dispCtlByte_toNat, rfl, rfl, rfl, rfl, rfl, cmdDdram_toNat⟩

/-- Settles O22: the clamped column is at most 39 and the clamped row at most 1, so the address is at most 39 + 0x40. -/
theorem ddramAddressNeverOverflows : Obligations.DdramAddressNeverOverflows := by
  intro cfg x y
  have haddr := ddramAddr_toNat cfg.widthInRange x y
  refine ⟨haddr, ?_, cmdDdram_toNat _⟩
  have hx := clamp_le x cfg.width
  have hy : clamp y Config.height ≤ 1 := clamp_le y 2
  have hw := cfg.widthInRange.2
  omega

/-! ## Configurations (R6, R7) -/

/-- Settles O48: the check tests the pins first and then the width, and `Params` carries both facts. -/
theorem illFormedConfigurationsAreRefused : Obligations.IllFormedConfigurationsAreRefused := by
  refine ⟨fun r => ?_, fun s => ⟨s.cfg.pinsDistinct, s.cfg.widthInRange⟩⟩
  by_cases hp : r.pins.Distinct
  · by_cases hw : WidthInRange r.width
    · exact ⟨fun _ => ⟨_, by rw [RawParams.check, dif_pos hp, dif_pos hw], rfl, rfl, rfl⟩, fun h => absurd ⟨hp, hw⟩ h,
        fun h => absurd hp h, fun _ h => absurd hw h⟩
    · have herr : r.check = .error .widthOutOfRange := by rw [RawParams.check, dif_pos hp, dif_neg hw]
      exact ⟨fun h => absurd h.2 hw, fun _ => ⟨_, herr⟩, fun h => absurd hp h, fun _ _ => herr⟩
  · have herr : r.check = .error .pinsOverlap := by rw [RawParams.check, dif_neg hp]
    exact ⟨fun h => absurd h.1 hp, fun _ => ⟨_, herr⟩, fun _ _ => herr, fun h => absurd h hp⟩

end Sys2Proof.Machine

/-! PROOFS. What a request leaves and what it emits, said once for every way in which it can end, and the frames and invariants that follow
(spec/10_state.md, spec/41_init.md R120, R138, spec/42_display_ops.md R150, spec/60_exceptions.md R206). -/

namespace Sys2Proof.Machine

/-! ## The state elements that a request writes -/

/-- `t` is `u` but for the events emitted since, `busy_o`, and the answers held. -/
structure SameElements (u t : State) : Prop where
  phase : t.phase = u.phase
  rdy : t.rdy = u.rdy
  addr : t.addr = u.addr
  cf : t.cf = u.cf
  bl : t.bl = u.bl
  cfg : t.cfg = u.cfg
  inputs : t.inputs = u.inputs

@[simp] theorem requestUpdate_addr (i : Instr) (s : State) : (requestUpdate i s).addr = s.addr := by cases i <;> rfl

@[simp] theorem requestUpdate_cursor (i : Instr) (s : State) : (requestUpdate i s).cf.c = s.cf.c := by cases i <;> rfl

@[simp] theorem requestUpdate_blink (i : Instr) (s : State) : (requestUpdate i s).cf.b = s.cf.b := by cases i <;> rfl

/-- A display request writes what `requestUpdate` says and nothing else, completed or stuck. -/
theorem exec_display_sameElements {i : Instr} {s t : State} (hi : isConstruct i = false) (h : exec i s = .next t) :
    SameElements (requestUpdate i s) t := by
  obtain ⟨-, rfl | ⟨pre, a, b, post, ans, -, -, rfl⟩⟩ := exec_display_next i s t hi h
  · exact ⟨rfl, rfl, rfl, rfl, rfl, rfl, rfl⟩
  · exact ⟨rfl, rfl, rfl, rfl, rfl, rfl, rfl⟩

/-- The display requests keep `PHASE`. -/
theorem exec_display_phase {i : Instr} {s t : State} (hi : isConstruct i = false) (h : exec i s = .next t) : t.phase = s.phase :=
  (exec_display_sameElements hi h).phase.trans (requestUpdate_phase i s)

/-- CONSTRUCT leaves `UNCONSTRUCTED`, completed, abandoned or stuck. -/
theorem exec_construct_phase {addr : Addr7} {s t : State} (h : exec (.construct addr) s = .next t) :
    s.phase = .unconstructed ∧ t.phase ≠ .unconstructed := by
  obtain ⟨hp, ⟨-, rfl⟩ | ⟨-, rfl⟩ | ⟨-, hin, -⟩⟩ := exec_construct_next addr s t h
  · exact ⟨hp, by simp⟩
  · exact ⟨hp, by simp⟩
  · exact ⟨hp, fun h0 => by have := hin.phase; simp [h0, rdyPhase] at this⟩

/-! ## The events that a request emits -/

/-- The events of a request that completes, display request or CONSTRUCT. -/
def execEvents (i : Instr) (s : State) : List Event :=
  match i with
  | .construct addr => if s.answers.probe then initEvents s.cfg addr s.cf s.bl else [.probe addr false]
  | _ => requestEvents i (requestUpdate i s)

theorem execEvents_display {i : Instr} (hi : isConstruct i = false) (s : State) :
    execEvents i s = requestEvents i (requestUpdate i s) := by
  cases i with
  | construct addr => cases hi
  | _ => rfl

theorem execEvents_construct (addr : Addr7) (s : State) :
    execEvents (.construct addr) s = if s.answers.probe then initEvents s.cfg addr s.cf s.bl else [.probe addr false] := rfl

/-- How a request begun in `s` ends: over with all its events, or stuck in one of its `WRITE`s with the events up to that one (R206). -/
def Ends (i : Instr) (s t : State) : Prop :=
  (t.busy = false ∧ t.trace = s.trace ++ execEvents i s) ∨
    (t.busy = true ∧ WriteAnswer.never ∈ s.answers.writes ∧
      ∃ pre a b post, execEvents i s = pre ++ .write a b :: post ∧ t.trace = s.trace ++ (pre ++ [.write a b]))

theorem exec_next_ends {i : Instr} {s t : State} (h : exec i s = .next t) : Ends i s t := by
  cases hi : isConstruct i with
  | false =>
    rw [Ends, execEvents_display hi]
    obtain ⟨-, rfl | ⟨pre, a, b, post, ans, he, hn, rfl⟩⟩ := exec_display_next i s t hi h
    · exact .inl ⟨rfl, by simp⟩
    · exact .inr ⟨by simp, hn, pre, a, b, post, he, by simp⟩
  | true =>
    obtain ⟨addr, rfl⟩ := eq_construct hi
    obtain ⟨-, ⟨hr, rfl⟩ | ⟨hr, rfl⟩ | ⟨hr, hin, hn, pre, a, b, post, he, htr⟩⟩ := exec_construct_next addr s t h
    · exact .inl ⟨rfl, by simp [execEvents_construct, hr]⟩
    · exact .inl ⟨rfl, by simp [execEvents_construct, hr]⟩
    · exact .inr ⟨hin.busy, hn, pre, a, b, post, by simpa [execEvents_construct, hr] using he, htr⟩

/-- Completed or stuck, a request has emitted a first part of its events. -/
theorem exec_next_prefix {i : Instr} {s t : State} (h : exec i s = .next t) :
    ∃ es, es <+: execEvents i s ∧ t.trace = s.trace ++ es := by
  rcases exec_next_ends h with ⟨-, htr⟩ | ⟨-, -, pre, a, b, post, he, htr⟩
  · exact ⟨_, List.prefix_rfl, htr⟩
  · exact ⟨_, ⟨post, by rw [he]; simp⟩, htr⟩

/-- Settles O34: a request that is not over is stuck in a `WRITE` that used the answer `never`. -/
theorem requestsStayBusyOnlyInAnUnansweredWrite : Obligations.RequestsStayBusyOnlyInAnUnansweredWrite := by
  intro i s t h
  rcases exec_next_ends h with ⟨hb, -⟩ | ⟨-, hn, pre, a, b, post, -, htr⟩
  · exact ⟨fun _ => hb, fun hb' => by simp [hb] at hb'⟩
  · exact ⟨fun ht => absurd hn ht, fun _ => ⟨hn, pre, a, b, by rw [htr, List.append_assoc]⟩⟩

/-! ## Frames -/

/-- Settles O25: the update of a transmitting request is nothing. -/
theorem transmittingRequestsKeepTheState : Obligations.TransmittingRequestsKeepTheState := by
  intro i s t hi h
  obtain ⟨hd, hu⟩ : isConstruct i = false ∧ requestUpdate i s = s := by
    rcases hi with rfl | ⟨x, y, rfl⟩ | ⟨c, rfl⟩ <;> exact ⟨rfl, rfl⟩
  obtain ⟨hp, hr, ha, hcf, hbl, hcfg, hin⟩ := hu ▸ exec_display_sameElements hd h
  obtain ⟨es, -, htr⟩ := exec_next_prefix h
  exact ⟨hp, hr, ha, hcf, hbl, hcfg, hin, es, htr⟩

/-- Settles O26: the update of a backlight request is `BL`. -/
theorem backlightRequestsKeepTheRest : Obligations.BacklightRequestsKeepTheRest := by
  intro v s t h
  obtain ⟨hd, hu⟩ : isConstruct (if v then .backlightOn else .backlightOff) = false ∧
      requestUpdate (if v then .backlightOn else .backlightOff) s = s.withBl v := by
    cases v <;> exact ⟨rfl, rfl⟩
  obtain ⟨hp, hr, ha, hcf, hbl, hcfg, hin⟩ := hu ▸ exec_display_sameElements hd h
  obtain ⟨es, -, htr⟩ := exec_next_prefix h
  exact ⟨hbl, hp, hr, ha, hcf, hcfg, hin, es, htr⟩

theorem isConstruct_display (v : Bool) : isConstruct (if v then .displayOn else .displayOff) = false := by cases v <;> rfl

theorem requestUpdate_display (v : Bool) (s : State) :
    requestUpdate (if v then .displayOn else .displayOff) s = s.withCf (withDisplay v s.cf) := by
  cases v <;> rfl

/-- Settles O27: the update of a display on/off request is `CF.D`. -/
theorem displayRequestsKeepTheRest : Obligations.DisplayRequestsKeepTheRest := by
  intro v s t h
  obtain ⟨hp, hr, ha, hcf, hbl, hcfg, hin⟩ := requestUpdate_display v s ▸ exec_display_sameElements (isConstruct_display v) h
  obtain ⟨es, -, htr⟩ := exec_next_prefix h
  exact ⟨hcf, hp, hr, ha, hbl, hcfg, hin, es, htr⟩

/-- The events of CONSTRUCT begin with its probe, and no first part of them that a request can end with is without it. -/
theorem exec_construct_trace {addr : Addr7} {s t : State} (h : exec (.construct addr) s = .next t) :
    ∃ es, t.trace = s.trace ++ .probe addr s.answers.probe :: es := by
  have hhead : ∃ es, execEvents (.construct addr) s = .probe addr s.answers.probe :: es := by
    cases hr : s.answers.probe with
    | false => exact ⟨[], by simp [execEvents_construct, hr]⟩
    | true => exact ⟨(initEvents s.cfg addr s.cf s.bl).tail, by rw [execEvents_construct, if_pos hr]; rfl⟩
  obtain ⟨es, hes⟩ := hhead
  rcases exec_next_ends h with ⟨-, htr⟩ | ⟨-, -, pre, a, b, post, he, htr⟩
  · exact ⟨es, by rw [htr, hes]⟩
  · cases pre with
    | nil => simp [hes] at he
    | cons e pre =>
      obtain ⟨rfl, -⟩ := List.cons.inj (hes.symm.trans he)
      exact ⟨_, htr⟩

/-- Settles O28, by the three ways in which CONSTRUCT can end. -/
theorem constructKeepsTheRest : Obligations.ConstructKeepsTheRest := by
  intro addr s t h
  have htr := exec_construct_trace h
  obtain ⟨-, ⟨-, rfl⟩ | ⟨-, rfl⟩ | ⟨-, hin, -⟩⟩ := exec_construct_next addr s t h
  · exact ⟨rfl, rfl, rfl, rfl, rfl, htr⟩
  · exact ⟨rfl, rfl, rfl, rfl, rfl, htr⟩
  · exact ⟨hin.addr, hin.cursor, hin.blink, hin.cfg, hin.inputs, htr⟩

/-- A request writes neither the parameters nor the host's coming moves. -/
theorem exec_next_cfg_inputs {i : Instr} {s t : State} (h : exec i s = .next t) : t.cfg = s.cfg ∧ t.inputs = s.inputs := by
  cases hi : isConstruct i with
  | false =>
    have hs := exec_display_sameElements hi h
    exact ⟨hs.cfg.trans (requestUpdate_cfg i s), hs.inputs.trans (requestUpdate_inputs i s)⟩
  | true =>
    obtain ⟨addr, rfl⟩ := eq_construct hi
    obtain ⟨-, -, -, hcfg, hin, -⟩ := constructKeepsTheRest addr s t h
    exact ⟨hcfg, hin⟩

/-- Settles O29: waiting, a reset and a request keep the parameters. -/
theorem stepKeepsTheParameters : Obligations.StepKeepsTheParameters := by
  intro s t h
  obtain ⟨-, ⟨-, rfl⟩ | ⟨w, rest, -, rfl⟩ | ⟨w, a, rest, i, -, -, hx⟩⟩ := step_next s t h
  · rfl
  · rfl
  · exact (exec_next_cfg_inputs hx).1

/-! ## `PHASE` and the probe (R21, R138) -/

/-- Settles O39: between resets only CONSTRUCT changes `PHASE`, and it does so in `UNCONSTRUCTED`, the first of the phases. -/
theorem phaseOnlyMovesForward : Obligations.PhaseOnlyMovesForward := by
  intro s t h hreset
  obtain ⟨-, ⟨-, rfl⟩ | ⟨w, rest, hin, -⟩ | ⟨w, a, rest, i, hin, hd, hx⟩⟩ := step_next s t h
  case inl => exact ⟨le_rfl, fun hne => absurd rfl hne⟩
  case inr.inl => exact absurd hin (hreset w rest)
  case inr.inr =>
    cases hi : isConstruct i with
    | false =>
      have hp : t.phase = s.phase := exec_display_phase (s := (s.withInputs rest).withAnswers a) hi hx
      exact ⟨hp ▸ le_rfl, fun hne => absurd hp hne⟩
    | true =>
      obtain ⟨addr, rfl⟩ := eq_construct hi
      have hp : s.phase = .unconstructed := (exec_construct_phase hx).1
      exact ⟨hp ▸ Nat.zero_le _, fun _ => ⟨hp, w, a, rest, addr, hin, hd⟩⟩

/-- The probes that a block in phase `p` can still emit before a reset. -/
def probesLeft (p : Phase) : Nat := if p = .unconstructed then 1 else 0

theorem requestEvents_probes {i : Instr} (s : State) (hi : isConstruct i = false) :
    (requestEvents i (requestUpdate i s)).countP Event.isProbe = 0 := by
  cases hr : s.rdy with
  | false => rw [requestEvents_of_not_rdy i (by simpa using hr), List.countP_nil]
  | true =>
    obtain ⟨isData, v, ts, -, hes⟩ := requestEvents_eq_byte_waits hi hr
    rw [hes, List.countP_append, byteEvents_probes, List.countP_map, Nat.zero_add]
    exact List.countP_eq_zero.2 fun t _ => by simp [Event.isProbe]

theorem initEvents_probes (cfg : Params) (addr : Addr7) (cf : ControlFlags) (bl : Bool) :
    (initEvents cfg addr cf bl).countP Event.isProbe = 1 := by
  simp [initEvents, List.countP_append, List.countP_cons, Event.isProbe]

/-- The events of a request hold at most the probe that the phase leaves, and spend it. -/
theorem exec_next_probes {i : Instr} {s t : State} (h : exec i s = .next t) :
    ∃ es, t.trace = s.trace ++ es ∧ es.countP Event.isProbe + probesLeft t.phase ≤ probesLeft s.phase := by
  obtain ⟨es, hpre, htr⟩ := exec_next_prefix h
  refine ⟨es, htr, ?_⟩
  have hle := hpre.sublist.countP_le (p := Event.isProbe)
  cases hi : isConstruct i with
  | false =>
    rw [execEvents_display hi, requestEvents_probes s hi] at hle
    rw [exec_display_phase hi h]
    omega
  | true =>
    obtain ⟨addr, rfl⟩ := eq_construct hi
    obtain ⟨hs, ht⟩ := exec_construct_phase h
    have hone : (execEvents (.construct addr) s).countP Event.isProbe = 1 := by
      rw [execEvents_construct]
      split
      · exact initEvents_probes ..
      · rfl
    rw [probesLeft, if_neg ht, probesLeft, if_pos hs]
    omega

/-- Since a block with the events `tr` behind it was in phase `p`, no reset has come and no more probes than `p` left were emitted. -/
structure ProbesSince (p : Phase) (tr : List Event) (s : State) : Prop where
  noReset : ∀ m ∈ s.inputs, m.isReset = false
  trace : ∃ es, s.trace = tr ++ es ∧ es.countP Event.isProbe + probesLeft s.phase ≤ probesLeft p

theorem ProbesSince.step_next {p : Phase} {tr : List Event} {s t : State} (hs : ProbesSince p tr s) (h : step s = .next t) :
    ProbesSince p tr t := by
  obtain ⟨hm, es, htr, hle⟩ := hs
  obtain ⟨-, ⟨-, rfl⟩ | ⟨w, rest, hin, rfl⟩ | ⟨w, a, rest, i, hin, -, hx⟩⟩ := Machine.step_next s t h
  case inl => exact ⟨hm, es, htr, hle⟩
  case inr.inl => cases hm (.reset w) (by simp [hin])
  case inr.inr =>
    obtain ⟨fs, htr', hle'⟩ := exec_next_probes hx
    refine ⟨fun m hmem => hm m ?_, es ++ fs, ?_, ?_⟩
    · rw [(exec_next_cfg_inputs hx).2] at hmem
      exact hin ▸ List.mem_cons_of_mem _ hmem
    · rw [htr', ← List.append_assoc, ← htr]
      rfl
    · simp only [State.withAnswers_phase, State.withInputs_phase] at hle'
      rw [List.countP_append]
      omega

/-- Settles O40: the probes emitted and those still possible never grow together, and `UNCONSTRUCTED` starts with one. -/
theorem probeAtMostOncePerReset : Obligations.ProbeAtMostOncePerReset := by
  intro n s t hm h
  obtain ⟨-, es, htr, hle⟩ := run_preserves (M := core) (P := ProbesSince s.phase s.trace) (fun _ _ => ProbesSince.step_next)
    ⟨hm, [], by simp, by simp⟩ h
  have hone : probesLeft s.phase ≤ 1 := by unfold probesLeft; split <;> omega
  refine ⟨es, htr, by omega, fun hp => ?_⟩
  have hnone : probesLeft s.phase = 0 := if_neg hp
  omega

/-! ## The invariant of the block's state -/

/-- A display request keeps the invariant: it leaves `PHASE` and `RDY`, it is legal only where `BL` and `CF.D` may be 1, and it is stuck only in an
event, which it has only with `RDY` = 1. -/
theorem exec_display_inv {i : Instr} {s t : State} (hi : isConstruct i = false) (hs : Inv s) (h : exec i s = .next t) : Inv t := by
  obtain ⟨hp, hr, -, hcf, -, -, -⟩ := exec_display_sameElements hi h
  rw [requestUpdate_phase] at hp
  rw [requestUpdate_rdy] at hr
  have hlegal := (displayLegal_iff _).1 (exec_display_next i s t hi h).1
  refine ⟨by rw [hr, hp, hs.rdy], fun _ => ?_, fun hb => ?_, ?_, fun hlt => ?_⟩
  · rw [hp]
    rcases hlegal with hl | hl <;> rw [hl] <;> rfl
  · rcases exec_next_ends h with ⟨hb', -⟩ | ⟨-, -, pre, a, b, post, he, -⟩
    · simp [hb] at hb'
    · rw [hr]
      refine Bool.eq_true_of_not_eq_false fun hr0 => ?_
      rw [execEvents_display hi, requestEvents_of_not_rdy i (by simpa using hr0)] at he
      simp at he
  · rw [hcf, requestUpdate_cursor, requestUpdate_blink]
    exact hs.cursorBlink
  · rw [hp] at hlt
    rcases hlegal with hl | hl <;> rw [hl] at hlt <;> exact absurd hlt (by decide)

/-- CONSTRUCT begins in `UNCONSTRUCTED`, where the invariant says that `RDY`, `BL` and `CF.D` are 0, and keeps it in each of its ends. -/
theorem exec_construct_inv {addr : Addr7} {s t : State} (hs : Inv s) (h : exec (.construct addr) s = .next t) : Inv t := by
  obtain ⟨hp, hend⟩ := exec_construct_next addr s t h
  have hrdy : s.rdy = false := by rw [hs.rdy, hp]; rfl
  obtain ⟨hbl, hd⟩ := hs.dark (by rw [hp]; decide)
  rcases hend with ⟨-, rfl⟩ | ⟨-, rfl⟩ | ⟨-, hin, -⟩
  · exact ⟨hrdy, fun _ => rfl, (fun hb => by cases hb), hs.cursorBlink, fun _ => ⟨hbl, hd⟩⟩
  · exact ⟨rfl, fun _ => rfl, (fun hb => by cases hb), hs.cursorBlink, fun hlt => absurd hlt (by simp [phaseRank])⟩
  · refine ⟨by rw [hin.rdy, hin.phase], fun hb => by simp [hin.busy] at hb, fun _ => hin.rdy,
      by rw [hin.cursor, hin.blink]; exact hs.cursorBlink, fun hlt => ?_⟩
    obtain ⟨hbl', hd'⟩ := hin.dark hlt
    exact ⟨hbl'.trans hbl, hd'.elim (·.trans hd) id⟩

theorem inv_applyReset (s : State) : Inv s.applyReset :=
  ⟨rfl, fun _ => rfl, (fun hb => by cases hb), ⟨rfl, rfl⟩, fun _ => ⟨rfl, rfl⟩⟩

/-- Settles O49, by the three things a step can do; a request is run from the same state elements with other inputs. -/
theorem stepKeepsTheInvariant : Obligations.StepKeepsTheInvariant := by
  intro s t hs h
  obtain ⟨-, ⟨-, rfl⟩ | ⟨w, rest, -, rfl⟩ | ⟨w, a, rest, i, -, -, hx⟩⟩ := step_next s t h
  case inl => exact hs
  case inr.inl => exact inv_applyReset _
  case inr.inr =>
    have hs' : Inv ((s.withInputs rest).withAnswers a) := ⟨hs.rdy, hs.visible, hs.stuckReady, hs.cursorBlink, hs.dark⟩
    cases hi : isConstruct i with
    | false => exact exec_display_inv hi hs' hx
    | true =>
      obtain ⟨addr, rfl⟩ := eq_construct hi
      exact exec_construct_inv hs' hx

/-- Settles O51: the reset state has `RDY`, `busy_o`, `BL` and `CF` at 0 in `UNCONSTRUCTED`, and no event. -/
theorem invariantsHoldAtReset : Obligations.InvariantsHoldAtReset :=
  ⟨inv_applyReset State.reset, (tracePaced_of_not_busy State.reset_busy).2 rfl⟩

end Sys2Proof.Machine

/-! PROOFS. The bytes of the `WRITE`s that a request emits (spec/30_encoding.md R81, spec/40_transmit.md R102): where they go, their free bit and their
backlight bit. -/

namespace Sys2Proof.Machine

/-! ## The `WRITE`s of a byte and of a request -/

/-- `b` is the byte of some nibble with the backlight bit `bl`, in the first or the second `WRITE` of its pulse (R103). -/
def IsNibbleWrite (p : PinAssignment) (bl : Bool) (b : Byte) : Prop :=
  ∃ v isData, b = nibbleByte p v isData bl ||| maskEn p ∨ b = nibbleByte p v isData bl

/-- The free bit is not the enable bit, so neither `WRITE` of a pulse sets it (R81). -/
theorem IsNibbleWrite.free {p : PinAssignment} (h : p.Distinct) {bl : Bool} {b : Byte} (hb : IsNibbleWrite p bl b) :
    b.getLsbD (pinFree p) = false := by
  obtain ⟨v, isData, rfl | rfl⟩ := hb
  · rw [getLsbD_or_maskEn, nibbleByte_free p h, Bool.false_or]
    simp only [pinFree_ne p h]
  · exact nibbleByte_free p h v isData bl

/-- The backlight bit is not the enable bit, so both `WRITE`s of a pulse carry it (R102). -/
theorem IsNibbleWrite.backlight {p : PinAssignment} (h : p.Distinct) {bl : Bool} {b : Byte} (hb : IsNibbleWrite p bl b) :
    b.getLsbD p.bl = bl := by
  obtain ⟨v, isData, rfl | rfl⟩ := hb
  · rw [getLsbD_or_maskEn, nibbleByte_bl p h]
    simp only [pins_ne p h, Bool.or_false]
  · exact nibbleByte_bl p h v isData bl

theorem write_mem_nibble {cfg : Params} {addr a : Addr7} {v : Nibble} {isData bl : Bool} {b : Byte}
    (h : .write a b ∈ pulseEvents cfg addr (nibbleByte cfg.pins v isData bl)) : a = addr ∧ IsNibbleWrite cfg.pins bl b := by
  obtain ⟨ha, hb⟩ := (mem_pulseEvents_write ..).1 h
  exact ⟨ha, v, isData, hb⟩

theorem write_mem_byteEvents {cfg : Params} {addr a : Addr7} {v b : Byte} {isData bl : Bool}
    (h : .write a b ∈ byteEvents cfg addr bl v isData) : a = addr ∧ IsNibbleWrite cfg.pins bl b :=
  (List.mem_append.1 h).elim write_mem_nibble write_mem_nibble

theorem write_mem_requestEvents {i : Instr} {s : State} (hi : isConstruct i = false) {a : Addr7} {b : Byte}
    (h : .write a b ∈ requestEvents i (requestUpdate i s)) : a = s.addr ∧ IsNibbleWrite s.cfg.pins (requestUpdate i s).bl b := by
  cases hr : s.rdy with
  | false =>
    rw [requestEvents_of_not_rdy i (by simpa using hr)] at h
    cases h
  | true =>
    obtain ⟨isData, v, ts, -, hes⟩ := requestEvents_eq_byte_waits hi hr
    rw [hes] at h
    refine write_mem_byteEvents ((List.mem_append.1 h).resolve_right fun hw => ?_)
    simp at hw

/-- A `WRITE` of the init sequence is one of its pulses or of its bytes, before or after `INIT_BL_ON` (R135). -/
theorem write_mem_initEvents {cfg : Params} {addr a : Addr7} {cf : ControlFlags} {bl : Bool} {b : Byte}
    (h : .write a b ∈ initEvents cfg addr cf bl) : a = addr ∧ ∃ bl', IsNibbleWrite cfg.pins bl' b := by
  have nibble {v : Nibble} (h : .write a b ∈ pulseEvents cfg addr (nibbleByte cfg.pins v false bl)) :
      a = addr ∧ ∃ bl', IsNibbleWrite cfg.pins bl' b := (write_mem_nibble h).imp_right fun hb => ⟨bl, hb⟩
  have byte {v : Byte} {bl' : Bool} (h : .write a b ∈ byteEvents cfg addr bl' v false) :
      a = addr ∧ ∃ bl', IsNibbleWrite cfg.pins bl' b := (write_mem_byteEvents h).imp_right fun hb => ⟨bl', hb⟩
  simp only [initEvents, List.append_assoc, List.cons_append, List.nil_append, List.mem_append, List.mem_cons, reduceCtorEq, false_or] at h
  rcases h with h | h | h | h | h | h | h | h | h | h
  · exact nibble h
  · exact nibble h
  · exact nibble h
  · exact nibble h
  all_goals exact byte h

/-- Every `WRITE` that a request emits is a nibble's byte for `ADDR`. -/
theorem write_mem_execEvents {i : Instr} {s t : State} (h : exec i s = .next t) {a : Addr7} {b : Byte}
    (hw : .write a b ∈ execEvents i s) : a = t.addr ∧ ∃ bl, IsNibbleWrite s.cfg.pins bl b := by
  cases hi : isConstruct i with
  | false =>
    rw [execEvents_display hi] at hw
    obtain ⟨ha, hb⟩ := write_mem_requestEvents hi hw
    exact ⟨by rw [ha, (exec_display_sameElements hi h).addr, requestUpdate_addr], _, hb⟩
  | true =>
    obtain ⟨addr, rfl⟩ := eq_construct hi
    obtain ⟨haddr, -⟩ := constructKeepsTheRest addr s t h
    rw [execEvents_construct] at hw
    split at hw
    · exact haddr ▸ write_mem_initEvents hw
    · simp at hw

/-- Settles O41: what a request emits is a first part of its events, whose `WRITE`s are nibbles' bytes. -/
theorem writesGoToAddrWithTheFreeBitClear : Obligations.WritesGoToAddrWithTheFreeBitClear := by
  intro i s t h
  obtain ⟨es, hpre, htr⟩ := exec_next_prefix h
  refine ⟨es, htr, fun a b hw => ?_⟩
  obtain ⟨ha, bl, hb⟩ := write_mem_execEvents h (hpre.subset hw)
  exact ⟨ha, hb.free s.cfg.pinsDistinct⟩

/-- Settles O42: a display request writes `BL` before it emits anything. -/
theorem backlightRidesOnEveryWrite : Obligations.BacklightRidesOnEveryWrite := by
  intro i s t hi h
  obtain ⟨es, hpre, htr⟩ := exec_next_prefix h
  rw [execEvents_display hi] at hpre
  refine ⟨es, htr, fun a b hw => ?_⟩
  obtain ⟨-, hb⟩ := write_mem_requestEvents hi (hpre.subset hw)
  rw [(exec_display_sameElements hi h).bl]
  exact hb.backlight s.cfg.pinsDistinct

/-! ## The backlight that stays off (R160) -/

/-- Of the display requests only BACKLIGHTON sets `BL`. -/
theorem requestUpdate_bl_of_off {i : Instr} {s : State} (hi : i ≠ .backlightOn) (hs : s.bl = false) : (requestUpdate i s).bl = false := by
  cases i with
  | backlightOn => exact absurd rfl hi
  | backlightOff => rfl
  | _ => exact hs

/-- Since a block with the parameters `cfg` had the events `tr` behind it, its backlight has been off, and the host is to send neither a reset nor
BACKLIGHTON. -/
structure DarkSince (cfg : Params) (tr : List Event) (s : State) : Prop where
  off : s.bl = false
  constructed : s.phase ≠ .unconstructed
  noReset : ∀ m ∈ s.inputs, m.isReset = false
  noBacklightOn : ∀ w a, .request w a ∈ s.inputs → decode w ≠ .ok .backlightOn
  params : s.cfg = cfg
  trace : ∃ es, s.trace = tr ++ es ∧ ∀ a b, .write a b ∈ es → b.getLsbD cfg.pins.bl = false

/-- A constructed block refuses CONSTRUCT, and every other request but BACKLIGHTON leaves the backlight off. -/
theorem DarkSince.exec_next {cfg : Params} {tr : List Event} {i : Instr} {s t : State} (hs : DarkSince cfg tr s) (hi : i ≠ .backlightOn)
    (h : exec i s = .next t) : DarkSince cfg tr t := by
  obtain ⟨hoff, hcon, hreset, hon, rfl, es, htr, hdark⟩ := hs
  have hd : isConstruct i = false := by
    refine Bool.eq_false_of_not_eq_true fun hc => ?_
    obtain ⟨addr, rfl⟩ := eq_construct hc
    exact hcon (exec_construct_phase h).1
  obtain ⟨hcfg, hin⟩ := exec_next_cfg_inputs h
  have hbl : t.bl = false := (exec_display_sameElements hd h).bl.trans (requestUpdate_bl_of_off hi hoff)
  obtain ⟨fs, htr', hfs⟩ := backlightRidesOnEveryWrite i s t hd h
  refine ⟨hbl, exec_display_phase hd h ▸ hcon, hin ▸ hreset, hin ▸ hon, hcfg, es ++ fs, by rw [htr', htr, List.append_assoc], fun a b hw => ?_⟩
  exact (List.mem_append.1 hw).elim (hdark a b) fun hw => (hfs a b hw).trans hbl

theorem DarkSince.step_next {cfg : Params} {tr : List Event} {s t : State} (hs : DarkSince cfg tr s) (h : step s = .next t) :
    DarkSince cfg tr t := by
  obtain ⟨-, ⟨-, rfl⟩ | ⟨w, rest, hin, rfl⟩ | ⟨w, a, rest, i, hin, hd, hx⟩⟩ := Machine.step_next s t h
  case inl => exact hs
  case inr.inl => cases hs.noReset (.reset w) (by simp [hin])
  case inr.inr =>
    have hi : i ≠ .backlightOn := fun he => hs.noBacklightOn w a (by simp [hin]) (he ▸ hd)
    have hrest : DarkSince cfg tr ((s.withInputs rest).withAnswers a) :=
      ⟨hs.off, hs.constructed, fun m hm => hs.noReset m (hin ▸ List.mem_cons_of_mem _ hm),
        fun w a hm => hs.noBacklightOn w a (hin ▸ List.mem_cons_of_mem _ hm), hs.params, hs.trace⟩
    exact hrest.exec_next hi hx

/-- Settles O43, by the invariant that the backlight is off and every later `WRITE` carried it off. -/
theorem backlightStaysOffUntilTurnedOn : Obligations.BacklightStaysOffUntilTurnedOn := by
  intro n s t hoff hcon hreset hon h
  have hend := run_preserves (M := core) (P := DarkSince s.cfg s.trace) (fun _ _ => DarkSince.step_next)
    ⟨hoff, hcon, hreset, hon, rfl, [], by simp, by simp⟩ h
  exact ⟨hend.off, hend.trace⟩

end Sys2Proof.Machine

/-! PROOFS. Where a request is stuck (spec/60_exceptions.md R206): the first `WRITE` whose answer is `never`, by its place among the events. -/

namespace Sys2Proof.Machine

/-- Events whose `WRITE`s are all completed go out, whatever the answers after theirs. -/
theorem emitAll_of_completed {es : List Event} {s : State}
    (h : WriteAnswer.never ∉ s.answers.writes.take (es.countP Event.isWrite)) :
    emitAll es s = .done (s.emitted es (s.answers.after es)) := by
  rcases emitAll_cases es s with hdone | ⟨_, _, _, _, -, -, hhung⟩
  · exact hdone
  · have hU := uses_emitAll es s
    rw [hhung] at hU
    obtain ⟨pre, a, b, post, rfl, -, -, hnever⟩ := hU
    refine absurd (List.mem_of_getElem? (i := pre.countP Event.isWrite) ?_) h
    rw [List.getElem?_take_of_lt (by simp [List.countP_append, List.countP_cons, Event.isWrite]), hnever]

/-- A transport that completes the `WRITE`s of `pre` and never the next one leaves the block stuck in that one. -/
theorem emitAll_stuck {pre post : List Event} {a : Addr7} {b : Byte} {s : State} (h : s.answers.StuckAfter pre) :
    emitAll (pre ++ .write a b :: post) s = .hung (s.emitted (pre ++ [.write a b]) (s.answers.after (pre ++ [.write a b]))) := by
  obtain ⟨hdone, hnever⟩ := h
  have hhead : (s.answers.after pre).writes.head? = some .never := by rw [Answers.after, List.head?_drop, hnever]
  rw [emitAll_append, emitAll_of_completed hdone, Run.andThen_done, emitAll]
  rcases emit_cases (.write a b) (s.emitted pre (s.answers.after pre)) with ⟨-, hne⟩ | ⟨hhung, -, -⟩
  · exact absurd hhead (hne rfl)
  · rw [hhung, Run.andThen_hung, State.emitted_emitted, State.emitted_answers, Answers.after_append]

/-- The answers completed before the first `never` are as many as the `WRITE`s before the one that is stuck. -/
theorem stuckAfter_iff {a : Answers} {ws ws' : List WriteAnswer} {pre : List Event} (h : a.writes = ws ++ .never :: ws')
    (hws : WriteAnswer.never ∉ ws) : a.StuckAfter pre ↔ pre.countP Event.isWrite = ws.length := by
  constructor
  · rintro ⟨hdone, hnever⟩
    rw [h] at hdone hnever
    rcases lt_trichotomy (pre.countP Event.isWrite) ws.length with hlt | heq | hgt
    · rw [List.getElem?_append_left hlt] at hnever
      exact absurd (List.mem_of_getElem? hnever) hws
    · exact heq
    · refine absurd (List.mem_of_getElem? (i := ws.length) ?_) hdone
      rw [List.getElem?_take_of_lt hgt]
      simp
  · intro hcount
    constructor
    · rw [hcount, h, List.take_left]
      exact hws
    · rw [hcount, h]
      simp

/-- The answers left when the first `never` is used. -/
theorem after_stuck {a : Answers} {ws ws' : List WriteAnswer} {pre : List Event} {x : Addr7} {b : Byte}
    (h : a.writes = ws ++ .never :: ws') (hcount : pre.countP Event.isWrite = ws.length) :
    a.after (pre ++ [.write x b]) = { a with writes := ws' } := by
  simp [Answers.after, List.countP_append, List.countP_cons, Event.isWrite, hcount, h]

/-- Settles O10: a nibble is the emission of one pulse, whose first `WRITE` has no event before it and whose second has one `WRITE` before it. -/
theorem sendNibbleHangsInTheUnansweredWrite : Obligations.SendNibbleHangsInTheUnansweredWrite := by
  intro v isData s hr
  have stuck {ws rest : List WriteAnswer} {pre post : List Event} {b : Byte} (h : s.answers.writes = ws ++ .never :: rest)
      (hws : WriteAnswer.never ∉ ws) (hcount : pre.countP Event.isWrite = ws.length)
      (hes : pulseEvents s.cfg s.addr (nibbleByte s.cfg.pins v isData s.bl) = pre ++ .write s.addr b :: post) :
      sendNibble v isData s = .hung (s.emitted (pre ++ [.write s.addr b]) { s.answers with writes := rest }) := by
    rw [sendNibble_eq, if_pos hr, hes, emitAll_stuck ((stuckAfter_iff h hws).2 hcount), after_stuck h hcount]
  refine ⟨fun rest h => ?_, fun st rest h => ?_⟩
  · exact stuck (ws := []) (pre := []) h (by simp) rfl rfl
  · exact stuck (ws := [.completed st]) (pre := [_, _]) h (by simp) rfl rfl

/-- Settles O14: CONSTRUCT cannot complete, since one of its 32 `WRITE`s has the answer `never`, and it is stuck in the first such. -/
theorem constructHangsInTheUnansweredWrite : Obligations.ConstructHangsInTheUnansweredWrite := by
  intro addr s ws ws' hp hr h hws hlt
  rcases exec_construct_answering addr s hp hr with ⟨-, hall⟩ | ⟨t, pre, a, b, post, hx, hin, hs, he, htr⟩
  · refine absurd (List.mem_of_getElem? (i := ws.length) ?_) hall
    rw [List.getElem?_take_of_lt hlt, h]
    simp
  · exact ⟨t, pre, a, b, post, hx, hin.busy, hin.rdy, hin.addr, he, (stuckAfter_iff h hws).1 hs, by rw [htr, List.append_assoc]⟩

/-- The `k`th of the four `WRITE`s of a byte stands at place `2 * k`: every `WRITE` is followed by its wait (R105). -/
theorem byteEvents_write_at (cfg : Params) (addr : Addr7) (bl : Bool) (v : Byte) (isData : Bool) {k : Nat} (hk : k < 4) :
    ∃ pre b post, byteEvents cfg addr bl v isData = pre ++ .write addr b :: post ∧ pre.length = 2 * k ∧
      pre.countP Event.isWrite = k := by
  interval_cases k
  · exact ⟨[], _, _, rfl, rfl, rfl⟩
  · exact ⟨[_, _], _, _, rfl, rfl, rfl⟩
  · exact ⟨[_, _, _, _], _, _, rfl, rfl, rfl⟩
  · exact ⟨[_, _, _, _, _, _], _, _, rfl, rfl, rfl⟩

/-- Settles O33: with `RDY` = 1 a display request begins with one byte, and is stuck in that byte's first `WRITE` with the answer `never`. -/
theorem displayRequestsHangInTheUnansweredWrite : Obligations.DisplayRequestsHangInTheUnansweredWrite := by
  intro i s ws ws' hi hp hr h hws hlt
  obtain ⟨isData, v, ts, -, hes⟩ := requestEvents_eq_byte_waits hi hr
  obtain ⟨pre, b, post, hbyte, hlen, hcount⟩ := byteEvents_write_at s.cfg s.addr (requestUpdate i s).bl v isData hlt
  have hsplit : requestEvents i (requestUpdate i s) = pre ++ .write s.addr b :: (post ++ ts.map .wait) := by rw [hes, hbyte]; simp
  have htake : (requestEvents i (requestUpdate i s)).take (2 * ws.length + 1) = pre ++ [.write s.addr b] := by
    rw [hsplit, ← hlen, List.take_length_add_append]
    rfl
  have hanswers : (requestUpdate i (s.withBusy true)).answers = s.answers := by cases i <;> rfl
  have hevents : requestEvents i (requestUpdate i (s.withBusy true)) = requestEvents i (requestUpdate i s) := by cases i <;> rfl
  rw [exec_display_eq i s hi ((displayLegal_iff _).2 hp), hevents, htake, hsplit,
    emitAll_stuck ((stuckAfter_iff (hanswers ▸ h) hws).2 hcount), after_stuck (hanswers ▸ h) hcount, hanswers]
  cases i <;> rfl

end Sys2Proof.Machine

/-! PROOFS. The counts of events (spec/70_reset_and_hazards.md R238): CONSTRUCT's trace, and the display requests. -/

namespace Sys2Proof.Machine

/-! ## CONSTRUCT (R135, R238) -/

theorem initEvents_length (cfg : Params) (addr : Addr7) (cf : ControlFlags) (bl : Bool) : (initEvents cfg addr cf bl).length = 69 := by
  simp [initEvents]

theorem initEvents_writes (cfg : Params) (addr : Addr7) (cf : ControlFlags) (bl : Bool) :
    (initEvents cfg addr cf bl).countP Event.isWrite = 32 := by
  simp [initEvents, List.countP_append, Event.isWrite]

theorem initEvents_waits (cfg : Params) (addr : Addr7) (cf : ControlFlags) (bl : Bool) :
    (initEvents cfg addr cf bl).countP Event.isWait = 36 := by
  simp [initEvents, List.countP_append, List.countP_cons, Event.isWait]

@[simp] theorem waitSum_wait (t : Nat) : waitSum [.wait t] = t := rfl

/-- A wait of `T_WR_US` after each of the 32 `WRITE`s, and the four mandated delays of R8. -/
theorem initEvents_waitSum (cfg : Params) (addr : Addr7) (cf : ControlFlags) (bl : Bool) :
    waitSum (initEvents cfg addr cf bl) = 32 * cfg.tWrUs + 156200 := by
  have probe : waitSum [.probe addr true] = 0 := rfl
  simp only [initEvents, waitSum_append, pulseEvents_waitSum, byteEvents_waitSum, waitSum_wait, probe]
  omega

/-- Settles O15: the rows are the pulses of R135 with the nibbles of its command bytes written out, and the counts hold from any flags. -/
theorem initTraceHasTheTabulatedRows : Obligations.InitTraceHasTheTabulatedRows :=
  fun _ _ => ⟨rfl, initEvents_length .., initEvents_probes .., initEvents_writes .., initEvents_waits .., initEvents_waitSum ..⟩

/-! ## The display requests (R107, R159, R238) -/

/-- Every display request but CLEAR is one byte. -/
theorem requestEvents_eq_byte {i : Instr} (hi : isConstruct i = false) (hc : i ≠ .clear) (u : State) :
    ∃ isData v, requestEvents i u = u.byteEvents v isData := by
  cases i with
  | construct addr => cases hi
  | clear => exact absurd rfl hc
  | _ => exact ⟨_, _, rfl⟩

/-- Settles O24: a byte is four `WRITE`s and four waits of `T_WR_US`. -/
theorem displayRequestEventCounts : Obligations.DisplayRequestEventCounts := by
  intro i s hi hp hr ht
  refine ⟨_, _, exec_display_completes i s hi ((displayLegal_iff _).2 hp) ht, by rw [State.completed_trace, requestUpdate_trace], ?_⟩
  by_cases hc : i = .clear
  · subst hc
    simp [requestUpdate, requestEvents, byteEvents_ready s _ _ hr, State.waitEvents, hr, List.countP_append, List.countP_cons,
      Event.isProbe, Event.isWrite, Event.isWait, delayClear]
  · obtain ⟨isData, v, hes⟩ := requestEvents_eq_byte hi hc (requestUpdate i s)
    rw [hes, byteEvents_ready _ _ _ (by simpa using hr)]
    simp [hc]

/-- Settles O23: the second request writes the flag that is there already, so it sends the byte of the same flags. -/
theorem displayRequestsAreIdempotentOnFlags : Obligations.DisplayRequestsAreIdempotentOnFlags := by
  intro s v hp hr ht
  have hi := isConstruct_display v
  have hl := (displayLegal_iff _).2 hp
  have once (u : State) (hl : displayLegal u.phase = true) (hr : u.rdy = true) (ht : TransportCompletes u) :
      exec (if v then .displayOn else .displayOff) u = .next ((u.withCf (withDisplay v u.cf)).completed
        (byteEvents u.cfg u.addr u.bl (dispCtlByte (withDisplay v u.cf)) false)) := by
    rw [exec_display_completes _ u hi hl ht, requestUpdate_display]
    have hes : requestEvents (if v then .displayOn else .displayOff) (u.withCf (withDisplay v u.cf)) =
        (u.withCf (withDisplay v u.cf)).byteEvents (dispCtlByte (withDisplay v u.cf)) false := by
      cases v <;> rfl
    rw [hes, byteEvents_ready (u.withCf (withDisplay v u.cf)) _ _ hr]
    rfl
  exact ⟨_, _, _, once s hl hr ht, once _ hl hr (by simp [TransportCompletes, Answers.none]), rfl, rfl, rfl, rfl, rfl⟩

end Sys2Proof.Machine

/-! PROOFS. What a step does with the host's move (spec/60_exceptions.md R211 to R213, spec/70_reset_and_hazards.md R231, R233), and a text presented
character by character (spec/42_display_ops.md R170). -/

namespace Sys2Proof.Machine

/-! ## One move -/

/-- Settles O32: a busy block stops for each kind of move, and without one. -/
theorem busyBlockHasNoNextState : Obligations.BusyBlockHasNoNextState := by
  intro s hb
  refine ⟨fun t h => ?_, fun hin => ?_, fun w a rest hin => ?_, fun w rest hin => ?_⟩
  · rw [(step_next s t h).1] at hb
    cases hb
  · rw [step_of_no_input hin, waitForHost, if_pos hb]
  · rw [step_of_input hin, takeInput, takeRequest, State.withInputs_busy, if_pos hb]
  · rw [step_of_input hin, takeInput, takeReset, State.withInputs_busy, if_pos hb]

/-- A block that is not busy runs the request that the word decodes to. -/
theorem step_of_request {s : State} {w : ReqWord} {a : Answers} {rest : List Input} {i : Instr} (hb : s.busy = false)
    (hin : s.inputs = .request w a :: rest) (hd : decode w = .ok i) : step s = exec i ((s.withInputs rest).withAnswers a) :=
  calc step s = takeRequest w a (s.withInputs rest) := step_of_input hin
    _ = runWord w ((s.withInputs rest).withAnswers a) := takeRequest_of_not_busy (s := s.withInputs rest) hb w a
    _ = exec i ((s.withInputs rest).withAnswers a) := runWord_of_ok hd _

/-- Settles O44: the move is off the list and its answers are loaded before the request runs. -/
theorem stepRunsTheDecodedRequest : Obligations.StepRunsTheDecodedRequest := by
  intro s w a rest i hb hin hd
  rw [step_of_request hb hin hd]
  rfl

/-- Settles O47: without a move a block that is not busy answers its own state, and no display request is legal in `UNCONSTRUCTED`. -/
theorem blockWaitsForTheHost : Obligations.BlockWaitsForTheHost := by
  refine ⟨fun s hb hin => ?_, fun i => ?_⟩
  · rw [step_of_no_input hin, waitForHost, hb]
    rfl
  · cases hi : isConstruct i with
    | false => rw [legal_display hi]; rfl
    | true =>
      obtain ⟨addr, rfl⟩ := eq_construct hi
      rfl

/-! ## A text (R78, R170) -/

/-- A run of one more step. -/
theorem run_succ {M : Host.Core} {s t : M.State} (h : M.step s = .next t) (n : Nat) : M.run (n + 1) s = M.run n t := by
  rw [Host.Core.run, h]

/-- A step that takes PRINTCHAR's word from a transport that completes sends that character. -/
theorem step_of_printChar {s : State} {c : Byte} {a : Answers} {rest : List Input} (hp : s.phase = .ready ∨ s.phase = .abandoned)
    (hb : s.busy = false) (ha : WriteAnswer.never ∉ a.writes) (hin : s.inputs = .request (encode (.printChar c)) a :: rest) :
    step s = .next ((s.withInputs rest).completed (s.byteEvents c true)) := by
  rw [step_of_request hb hin (decode_encode (.printChar c)),
    (printCharSendsItsByteAsData c ((s.withInputs rest).withAnswers a)).1 hp ha]
  rfl

/-- Settles O54, by induction on the text: each character is one step, after which the block is as before but for the events. -/
theorem printIsItsCharactersInOrder : Obligations.PrintIsItsCharactersInOrder := by
  intro text
  induction text with
  | nil =>
    intro s a rest hp hb ha hin
    exact ⟨s, rfl, rfl, rfl, rfl, rfl, rfl, hb, rfl, hin, by simp⟩
  | cons c text ih =>
    intro s a rest hp hb ha hin
    obtain ⟨t, hrun, hphase, hrdy, haddr, hcf, hbl, hbusy, hcfg, hinputs, htr⟩ :=
      ih ((s.withInputs (presentations (printWords text) a ++ rest)).completed (s.byteEvents c true)) a rest hp rfl ha rfl
    refine ⟨t, ?_, hphase, hrdy, haddr, hcf, hbl, hbusy, hcfg, hinputs, ?_⟩
    · have hstep : core.step s = .next _ := step_of_printChar hp hb ha hin
      exact (run_succ hstep text.length).trans hrun
    · rw [htr, List.flatMap_cons, ← List.append_assoc]
      rfl

end Sys2Proof.Machine
